-- ==== Sys2Proof/Word.lean ====
section
/-! DEFINITION. The word types of the block: every value is an unsigned bit string of a stated width (R9). -/

namespace Sys2Proof

/-- One byte: a character (R10), a chip register, one unit of the bus (R55). -/
abbrev Byte := BitVec 8

/-- A 16-bit value: the PI code (R22) and the group word (R79). -/
abbrev Half := BitVec 16

/-- A command word (R70, R78). -/
abbrev Word := BitVec 32

end Sys2Proof
end

