-- ==== Sys2Proof/Syntax.lean ====
section
/-! DEFINITION. The commands of the block, one constructor per row of spec/opcode_table.json, each operand at exactly the
width its field of the command word has (R70, R72), so that a command with an operand out of range cannot be built. -/

namespace Sys2Proof

/-- The five commands (R71). Their written forms are those of R85. -/
inductive Instr where
  /-- SEND_PS (R130): `pty` is the whole of `ARG8` (R75 truncates it), `vb` is `useVariantB`, `st` is `stereo`. -/
  | sendps (pty : Byte) (vb st : Bool)
  /-- SEND_RT (R150): `pty` is the whole of `ARG8`, `ab` is `newTextFlag`. -/
  | sendrt (pty : Byte) (ab : Bool)
  /-- GET_PS (R170): `rst` is `resetAfterRead`. -/
  | getps (rst : Bool)
  /-- GET_RT (R171): `rst` is `resetAfterRead`. -/
  | getrt (rst : Bool)
  /-- LOAD_TEXT (R174): `idx` is `IDX`, `byte` is `ARG8`. -/
  | ldtxt (idx : BitVec 6) (byte : Byte)
deriving DecidableEq, Repr

/-- The command's mnemonic in spec/opcode_table.json. -/
def Instr.mnemonic : Instr → String
  | .sendps _ _ _ => "SENDPS"
  | .sendrt _ _ => "SENDRT"
  | .getps _ => "GETPS"
  | .getrt _ => "GETRT"
  | .ldtxt _ _ => "LDTXT"

end Sys2Proof
end

