-- ==== Sys2Proof/WellFormed.lean ====
section
/-! DEFINITION. The written form of commands (R85) and of the pseudo-instructions (R86), with the checks an assembler makes.
"An operand out of its range is an assembly error. The assembler never truncates it" (R85). Operands are numbers here, so
there is something to check; what passes the check is turned into `Instr`, whose operands have their exact widths. -/

namespace Sys2Proof

/-- An operand as written: a decimal or hexadecimal literal, or a character literal (R85). -/
inductive Literal where
  | num (n : Nat)
  | chr (c : Char)
deriving DecidableEq, Repr

/-- One line of assembly (R85, R86). -/
inductive Stmt where
  | sendps (pty vb st : Literal)
  | sendrt (pty ab : Literal)
  | getps (rst : Literal)
  | getrt (rst : Literal)
  | ldtxt (idx byte : Literal)
  | ldstr (idx : Literal) (text : List Char)
  | ldps (text : List Char)
  | ldrt (text : List Char)
  | waitidle
deriving DecidableEq, Repr

/-- A printable character, the only kind whose byte the spec gives: "`byte(c)` for a printable character is its ASCII code"
(R86; log 23, PRESUMED, safe: other characters are refused). -/
def printable (c : Char) : Bool := decide (0x20 ≤ c.toNat) && decide (c.toNat ≤ 0x7E)

/-- A literal's number (R85: a character literal "stands for its 8-bit byte"). -/
def Literal.value : Literal → Nat
  | .num n => n
  | .chr c => c.toNat

/-- The literal may stand here: its number is below `bound`, and a character is printable. -/
def Literal.below (bound : Nat) : Literal → Bool
  | .num n => decide (n < bound)
  | .chr c => printable c && decide (c.toNat < bound)

/-- The ranges of R85 and the lengths of R86. `pty` goes to 255, "so that the block's own 5-bit truncation of rule R75 can be
exercised". -/
def Stmt.check : Stmt → Bool
  | .sendps pty vb st => pty.below 256 && vb.below 2 && st.below 2
  | .sendrt pty ab => pty.below 256 && ab.below 2
  | .getps rst => rst.below 2
  | .getrt rst => rst.below 2
  | .ldtxt idx byte => idx.below 64 && byte.below 256
  | .ldstr idx text => idx.below 65 && decide (idx.value + text.length ≤ 64) && text.all printable
  | .ldps text => decide (text.length = 8) && text.all printable
  | .ldrt text => decide (text.length = 64) && text.all printable
  | .waitidle => true

/-- The written form of a command. -/
def Instr.toStmt : Instr → Stmt
  | .sendps pty vb st => .sendps (.num pty.toNat) (.num vb.toNat) (.num st.toNat)
  | .sendrt pty ab => .sendrt (.num pty.toNat) (.num ab.toNat)
  | .getps rst => .getps (.num rst.toNat)
  | .getrt rst => .getrt (.num rst.toNat)
  | .ldtxt idx byte => .ldtxt (.num idx.toNat) (.num byte.toNat)

/-- A command is well formed if its written form passes the assembler's checks. The types of `Instr` make this hold of every
command (`Sys2Proof.Laws.WellFormed`): no ill-formed command can be built. -/
abbrev Instr.WellFormed (i : Instr) : Prop := i.toStmt.check = true

end Sys2Proof
end

