-- ==== Sys2Proof/Decode.lean ====
section
/-! DEFINITION. The command word's fields (R70), the decoder (R74), the encoder (R85), and the opcode table's match and mask
pairs (R84). -/

namespace Sys2Proof

/-- `OP`, bits 3:0 (R70). -/
def opField (w : Word) : BitVec 4 := w.extractLsb' 0 4
/-- `F0`, bit 4 (R70). -/
def f0Field (w : Word) : Bool := w.getLsbD 4
/-- `F1`, bit 5 (R70). -/
def f1Field (w : Word) : Bool := w.getLsbD 5
/-- `RSV0`, bits 7:6 (R70). -/
def rsv0Field (w : Word) : BitVec 2 := w.extractLsb' 6 2
/-- `ARG8`, bits 15:8 (R70). -/
def arg8Field (w : Word) : Byte := w.extractLsb' 8 8
/-- `IDX`, bits 21:16 (R70). -/
def idxField (w : Word) : BitVec 6 := w.extractLsb' 16 6
/-- `RSV1`, bits 31:22 (R70). -/
def rsv1Field (w : Word) : BitVec 10 := w.extractLsb' 22 10

/-- Why a word is ILLEGAL (R73). The block has one code for all of them, "so no order among decode failures can be observed"
(R205 (b)). -/
inductive Illegal where
  /-- `RSV0` or `RSV1` is not zero. -/
  | reservedBits
  /-- `OP` is `0x0` or `0x6` to `0xF` (R71). -/
  | unassignedOpcode
  /-- A field that R72 marks "0" for the opcode is not zero. -/
  | mustBeZeroField
deriving DecidableEq, Repr

/-- The decoder (R74), a total function from words to a command or ILLEGAL. -/
def decode (w : Word) : Except Illegal Instr :=
  if rsv0Field w ≠ 0#2 ∨ rsv1Field w ≠ 0#10 then .error .reservedBits
  else if opField w = 0x1#4 then
    if idxField w ≠ 0#6 then .error .mustBeZeroField
    else .ok (.sendps (arg8Field w) (f0Field w) (f1Field w))
  else if opField w = 0x2#4 then
    if f1Field w = true ∨ idxField w ≠ 0#6 then .error .mustBeZeroField
    else .ok (.sendrt (arg8Field w) (f0Field w))
  else if opField w = 0x3#4 then
    if f1Field w = true ∨ arg8Field w ≠ 0#8 ∨ idxField w ≠ 0#6 then .error .mustBeZeroField
    else .ok (.getps (f0Field w))
  else if opField w = 0x4#4 then
    if f1Field w = true ∨ arg8Field w ≠ 0#8 ∨ idxField w ≠ 0#6 then .error .mustBeZeroField
    else .ok (.getrt (f0Field w))
  else if opField w = 0x5#4 then
    if f0Field w = true ∨ f1Field w = true then .error .mustBeZeroField
    else .ok (.ldtxt (idxField w) (arg8Field w))
  else .error .unassignedOpcode

/-- The word of a mnemonic (R85): `(RSV1=0) | (IDX << 16) | (ARG8 << 8) | (F1 << 5) | (F0 << 4) | OP`. -/
def packWord (idx : BitVec 6) (arg8 : Byte) (f1 f0 : Bool) (op : BitVec 4) : Word :=
  (idx.setWidth 32 <<< 16) ||| (arg8.setWidth 32 <<< 8) ||| ((BitVec.ofBool f1).setWidth 32 <<< 5) |||
    ((BitVec.ofBool f0).setWidth 32 <<< 4) ||| op.setWidth 32

/-- The encoder: the operands of each command in the fields R85 gives them. -/
def encode : Instr → Word
  | .sendps pty vb st => packWord 0#6 pty st vb 0x1#4
  | .sendrt pty ab => packWord 0#6 pty false ab 0x2#4
  | .getps rst => packWord 0#6 0#8 false rst 0x3#4
  | .getrt rst => packWord 0#6 0#8 false rst 0x4#4
  | .ldtxt idx byte => packWord idx byte false false 0x5#4

/-- One row of spec/opcode_table.json: a word is the row's command if `word & mask = pattern` (R74). -/
structure OpcodeRow where
  mnemonic : String
  pattern : Word
  mask : Word
deriving DecidableEq, Repr

/-- The rows of spec/opcode_table.json (R84). -/
def opcodeTable : List OpcodeRow :=
  [⟨"SENDPS", 0x00000001#32, 0xFFFF00CF#32⟩,
   ⟨"SENDRT", 0x00000002#32, 0xFFFF00EF#32⟩,
   ⟨"GETPS", 0x00000003#32, 0xFFFFFFEF#32⟩,
   ⟨"GETRT", 0x00000004#32, 0xFFFFFFEF#32⟩,
   ⟨"LDTXT", 0x00000005#32, 0xFFC000FF#32⟩]

/-- The word is one of the row's (R74). -/
abbrev OpcodeRow.Matches (r : OpcodeRow) (w : Word) : Prop := w &&& r.mask = r.pattern

/-- A command word from a number of `nbits` bits, the bits above them zero. -/
def wordOfBits (nbits w : Nat) : Word := BitVec.ofNat 32 (w % 2 ^ nbits)

/-- The decoder on a table word. Every command is one 32-bit word (R78). -/
def decodeTableWord (nbits w : Nat) : Option Instr := (decode (wordOfBits nbits w)).toOption

end Sys2Proof
end

