-- ==== Sys2Proof/Config.lean ====
section
/-! DEFINITION. What an instance fixes: the parameters of R8, those with the source's value and those it leaves open. The parameters
are a field of State (`Params`), so every statement about every state holds for every instance. `Config.params` is the
instance State.reset has: a parameter the spec leaves without a default is an opaque constant there, of which nothing can be
proved. -/

namespace Sys2Proof

/-- `P_TOGGLE_REG` (R8, D18): a chip register "not in `0x10`-`0x17`" (R235). Carrying the condition means that an instance that
breaks it cannot be built (log 11). -/
structure ToggleReg where
  addr : Byte
  outside : addr < 0x10#8 ∨ 0x17#8 < addr
deriving DecidableEq, Repr

/-- The parameters of R8 whose ground is "source": an instance carries them as arguments like the others (log 27). -/
structure SourceParams where
  /-- `P_DEV_ADDR`, the bus address of every transaction (R57). -/
  devAddr : BitVec 7
  /-- `P_RDS_BASE`, the first RDS data register (R52). -/
  rdsBase : Byte
  /-- `P_RDS_LEN`, the data bytes of a burst (R104). -/
  rdsLen : Nat
  /-- `P_STATUS_READ_LEN`, the bytes of a status read-back (R103). -/
  statusReadLen : Nat
  /-- `P_STATUS_INDEX`, the read-back byte that is kept (R103). -/
  statusIndex : Nat
  /-- `P_TOGGLE_BIT`, the bit the handshake inverts (R105). -/
  toggleBit : Nat
  /-- The segments of a PS cycle (R107). -/
  psSegments : Nat
  /-- The segments of an RT cycle (R107). -/
  rtSegments : Nat
  /-- The size of the TEXT buffer (R26, R50). -/
  textBytes : Nat
deriving DecidableEq, Repr

/-- The values the source fixes (R8). -/
def Config.source : SourceParams where
  devAddr := 0x2B#7
  rdsBase := 0x10#8
  rdsLen := 8
  statusReadLen := 7
  statusIndex := 3
  toggleBit := 2
  psSegments := 4
  rtSegments := 16
  textBytes := 64

/-- The parameters of R8: those the source fixes, and those an integrator fixes at instantiation (R235). -/
structure Params where
  /-- The parameters the source fixes. -/
  source : SourceParams
  /-- The rules write these values out (R57, R103 to R107), so an instance with others cannot be built (log 27). -/
  source_ok : source = Config.source
  /-- `P_PI`, the value of the read-only `PI` (R22). -/
  pi : Half
  /-- `P_AF[0..7]`, the value of the read-only `AF` (R23). -/
  af : Vector Byte 8
  /-- `P_TP`, the traffic-programme bit of every group word (R80). -/
  tp : Bool
  /-- `P_TA`, the traffic-announcement bit of group 0 (R80). -/
  ta : Bool
  /-- `P_MS`, the music/speech bit of group 0 (R80). -/
  ms : Bool
  /-- `P_TOGGLE_REG`, the chip register the toggle write goes to (R105). -/
  toggleReg : ToggleReg
  /-- `P_PACE` (R211). The spec gives a duration and no timer resolution (R243). DESIGN CHOICE: a rational number of milliseconds,
  which assumes no resolution (log 28). -/
  paceMs : Rat
  /-- "`P_PACE` must therefore be at least 90 ms" (R236): an instance that breaks it cannot be built (log 11). -/
  pace_ok : 90 ≤ paceMs
  /-- `CNT_W`, the width of the counters and of RESULT (R24, R25, R27). -/
  cntW : Nat
deriving DecidableEq, Repr

namespace Config

/-- `P_PI`: "any; fixed at instantiation" (R8, D13). A free value (log 8). -/
opaque pPI : Half

/-- `P_AF[0..7]`: OPEN, no default (R8, D14). A free value (log 8). -/
opaque pAF : Vector Byte 8

/-- `P_TOGGLE_REG` before R235's condition: OPEN, no default (R8, D18). A free value (log 8). -/
opaque rawToggleReg : Byte

/-- `P_TOGGLE_REG`: any register outside the burst window. A raw value inside it stands for 0x00, so that the constant is free
over exactly the legal values (log 8). -/
def pToggleReg : ToggleReg :=
  if h : rawToggleReg < 0x10#8 ∨ 0x17#8 < rawToggleReg then ⟨rawToggleReg, h⟩ else ⟨0x00#8, by decide⟩

/-- The instance that State.reset has: the spec's defaults where it gives one (`P_TP`, `P_TA`, `P_MS`, `P_PACE`, `CNT_W`; R8, D12,
D16, D21; log 9), free values elsewhere. -/
def params : Params where
  source := source
  source_ok := rfl
  pi := pPI
  af := pAF
  tp := false
  ta := false
  ms := false
  toggleReg := pToggleReg
  paceMs := 100
  pace_ok := by decide
  cntW := 32

end Config
end Sys2Proof
end

