-- ==== Sys2Proof/Machine/State.lean ====
section
/-! DEFINITION. The state of the block (10_state.md R20, R38), the events of the observation (R7), the moves of the other agents
(R5), and the outcomes a step may end in. -/

namespace Sys2Proof.Machine

/-- `PHASE` (R31): the next step of the segment sequence. -/
inductive Phase where
  | idle | read | burst | toggle | wait
deriving DecidableEq, Repr

/-- `MODE` (R33): which send is running. -/
inductive Mode where
  | ps | rt
deriving DecidableEq, Repr

/-- `MODE` as its one bit (R33: PS = 0, RT = 1). -/
def Mode.bit : Mode → BitVec 1
  | .ps => 0#1
  | .rt => 1#1

/-- The codes of `STATUS.ERR` that are ever produced (R200). -/
inductive ErrCode where
  | none | illegalCmd | busyReject | busAbort
deriving DecidableEq, Repr

/-- The acknowledgement of a bus transaction (R9, D20). -/
inductive Ack where
  | ok | fail
deriving DecidableEq, Repr

/-- One event of the trace (R7). -/
inductive Event where
  | busWrite (dev : BitVec 7) (sub : Byte) (bytes : List Byte) (ack : Ack)
  | busRead (dev : BitVec 7) (n : Nat) (bytes : List Byte) (ack : Ack)
  /-- The duration asked for, `P_PACE` as the parameters hold it: a rational number of milliseconds (log 28). -/
  | timerStart (ms : Rat)
  | timerElapsed
  | accept (word : Word)
  | reject (word : Word) (code : ErrCode)
  | done (op : Mode)
  | abort (code : ErrCode)
deriving DecidableEq, Repr

/-- One move of another agent (R5). An answer carries the epoch of the request it answers (log 4). -/
inductive Input where
  /-- The host presents a word: `CMD_VALID` is 1 and `CMD_WORD` is `word` (R28). -/
  | command (word : Word)
  /-- The device answers a status read-back with an acknowledgement and the 7 bytes, a free draw (R9, R54). -/
  | readReply (epoch : Nat) (ack : Ack) (bytes : Vector Byte 7)
  /-- The device acknowledges a bus write (R9). -/
  | writeAck (epoch : Nat) (ack : Ack)
  /-- The timer agent reports that the pacing wait is over (R211). -/
  | timerElapsed (epoch : Nat)
  /-- The reset input is asserted (R30, R230). -/
  | rst
  /-- An agent other than the block accesses the chip (R62, R237, D32). -/
  | foreignAccess
deriving DecidableEq, Repr

/-- A byte memory: (address, byte) pairs, addresses strictly rising. An address that is not listed holds no value (log 6). -/
abbrev Memory := List Host.Cell

/-- Every listed address lies in `lo ≤ a < hi` and the addresses rise strictly. -/
def Memory.sortedFrom : Nat → Nat → Memory → Bool
  | _, _, [] => true
  | lo, hi, c :: m => decide (lo ≤ c.1) && decide (c.1 < hi) && Memory.sortedFrom (c.1 + 1) hi m

/-- The canonical form of TEXT: strictly rising indices below its size, 64 (R8, R26, R50). -/
def Memory.wf (m : Memory) : Bool := Memory.sortedFrom 0 Config.source.textBytes m

/-- The state. Each field names the rule that gives it; the last three are the model's own. -/
structure State where
  /-- The parameters of the instance: `PI` (R22), `AF` (R23) and the others of R8. Nothing writes them. -/
  params : Params
  /-- `CNT_PS` (R24), a number below 2^CNT_W. -/
  cntPs : Nat
  /-- `CNT_RT` (R25), a number below 2^CNT_W. -/
  cntRt : Nat
  /-- `RESULT` (R27), a number below 2^CNT_W. -/
  result : Nat
  /-- `TEXT[0..63]` (R26). -/
  text : Memory
  /-- `STATUS` (R29), read by the host through `State.statusPort`. -/
  status : Byte
  /-- `PHASE` (R31). -/
  phase : Phase
  /-- `SEG` (R32). -/
  seg : BitVec 4
  /-- `MODE` (R33). -/
  mode : Mode
  /-- `L_VARB` (R33). -/
  lVarb : Bool
  /-- `L_STEREO` (R33). -/
  lStereo : Bool
  /-- `L_AB` (R33). -/
  lAb : Bool
  /-- `L_PTY` (R33). -/
  lPty : BitVec 5
  /-- `RB3` (R34). -/
  rb3 : Byte
  /-- `BURST[0..7]` (R35). -/
  burst : Vector Byte 8
  /-- The model's own: what the other agents do next, oldest first (log 1). -/
  inputs : List Input
  /-- The model's own: how many reset steps there have been (log 4). -/
  epoch : Nat
  /-- The model's own: the observation, oldest event first (R7; log 17). -/
  trace : List Event
deriving DecidableEq, Repr

/-- Why a run stops with a fault (R216). Both are safe: the hardware goes on and the model does not say how. -/
inductive Fault where
  /-- A BURST step reads a TEXT byte never written since reset (R216 (a)). Raised by `burstStep` and `noInput`. -/
  | unwrittenText
  /-- An agent other than the block accesses the chip while BUSY (R216 (b)). Raised by `foreignStep`. -/
  | foreignDeviceAccess
deriving DecidableEq, Repr

/-- Why a step has no meaning. -/
inductive Refusal where
  /-- The command's arm in `exec` has no meaning yet. Raised by `exec` only (safe); no arm raises it. -/
  | notModelled (mnemonic : String)
deriving DecidableEq, Repr

/-- The state right after power-on reset, which is instantiation (R38, R230, R232). RB3 and BURST, which the spec leaves
unspecified, are 0 (log 7). -/
def State.reset : State where
  params := Config.params
  cntPs := 0
  cntRt := 0
  result := 0
  text := []
  status := 0#8
  phase := .idle
  seg := 0#4
  mode := .ps
  lVarb := false
  lStereo := false
  lAb := false
  lPty := 0#5
  rb3 := 0#8
  burst := #v[0#8, 0#8, 0#8, 0#8, 0#8, 0#8, 0#8, 0#8]
  inputs := []
  epoch := 0
  trace := []

end Sys2Proof.Machine
end

