-- ==== Sys2Proof/Machine/Flags.lean ====
section
/-! DEFINITION. The STATUS register (R29): its fields, and the only ways they are written. The block has no other flags. -/

namespace Sys2Proof.Machine

/-- The code's number (R200). -/
def ErrCode.bits : ErrCode → BitVec 3
  | .none => 0#3
  | .illegalCmd => 1#3
  | .busyReject => 2#3
  | .busAbort => 3#3

/-- STATUS from its two fields: `BUSY` in bit 0, `ERR` in bits 3:1, bits 7:4 zero (R29). -/
def packStatus (busy : Bool) (err : BitVec 3) : Byte := (0#4 ++ err) ++ BitVec.ofBool busy

/-- `BUSY` of a STATUS value (R29). -/
def statusBusy (st : Byte) : Bool := st.getLsbD 0

/-- `ERR` of a STATUS value (R29). -/
def statusErr (st : Byte) : BitVec 3 := st.extractLsb' 1 3

/-- `STATUS.BUSY`. -/
def State.busy (s : State) : Bool := statusBusy s.status

/-- `STATUS.ERR`. -/
def State.err (s : State) : BitVec 3 := statusErr s.status

/-- The status port as the host reads it: bits 7:4 are hardwired 0 (R29; log 20). -/
def State.statusPort (s : State) : Byte := packStatus s.busy s.err

/-- The result port (R30). -/
def State.resultPort (s : State) : Nat := s.result

/-- `STATUS.BUSY <- b`. -/
def State.setBusy (s : State) (b : Bool) : State := { s with status := packStatus b s.err }

/-- `STATUS.ERR <- code`. -/
def State.setErr (s : State) (code : ErrCode) : State := { s with status := packStatus s.busy code.bits }

end Sys2Proof.Machine
end

