-- ==== Sys2Proof/Machine/Operands.lean ====
section
/-! DEFINITION. What the commands and the segment steps compute from their operands: the Programme Type (R75), the group words
(R79, R80, R131, R151), the bursts (R132, R152), the toggle byte (R105), and what a transaction puts on the bus (R53, R65, R83). -/

namespace Sys2Proof.Machine

/-- `hi8(v)` (R9). -/
def hi8 (v : Half) : Byte := v.extractLsb' 8 8

/-- `lo8(v)` (R9). -/
def lo8 (v : Half) : Byte := v.extractLsb' 0 8

/-- `ARG8[4:0]` (R75): bits 7:5 are discarded. -/
def ptyOf (ptyin : Byte) : BitVec 5 := ptyin.extractLsb' 0 5

/-! ### Positions of the group-word fields

The IEC 62106 layout of R79, in one table (D15): the spec's own general knowledge (log 10). -/

/-- The group type code, bits 15:12. -/
def posGroupType : Nat := 12
/-- The version bit `B0`. -/
def posVersion : Nat := 11
/-- `TP`. -/
def posTP : Nat := 10
/-- `PTY`, bits 9:5. -/
def posPTY : Nat := 5
/-- `TA`, group 0. -/
def posTA : Nat := 4
/-- The text A/B flag, group 2. -/
def posAB : Nat := 4
/-- `MS`, group 0. -/
def posMS : Nat := 3
/-- `DI`, group 0. -/
def posDI : Nat := 2

/-- A value put into the group word at a position: `zext_16(v) << pos`. -/
def atPos {n : Nat} (v : BitVec n) (pos : Nat) : Half := v.setWidth 16 <<< pos

/-- One bit put into the group word. -/
def bitAt (b : Bool) (pos : Nat) : Half := atPos (BitVec.ofBool b) pos

/-- `TMPL_0A` (R80). -/
def tmpl0A (p : Params) : Half := bitAt p.tp posTP ||| bitAt p.ta posTA ||| bitAt p.ms posMS

/-- `TMPL_0B` (R80): `TMPL_0A` with the version bit. -/
def tmpl0B (p : Params) : Half := tmpl0A p ||| bitAt true posVersion

/-- `TMPL_2A` (R80). -/
def tmpl2A (p : Params) : Half := atPos 0x2#4 posGroupType ||| bitAt p.tp posTP

/-- The PS group word, `gw_ps(seg)` (R131). -/
def gwPs (p : Params) (varb stereo : Bool) (pty : BitVec 5) (seg : BitVec 4) : Half :=
  (if varb then tmpl0B p else tmpl0A p) ||| atPos pty posPTY |||
    bitAt (decide (seg = 3#4) && stereo) posDI ||| (seg.extractLsb' 0 2).setWidth 16

/-- The RT group word, `gw_rt(seg)` (R151). -/
def gwRt (p : Params) (ab : Bool) (pty : BitVec 5) (seg : BitVec 4) : Half :=
  tmpl2A p ||| atPos pty posPTY ||| bitAt ab posAB ||| seg.setWidth 16

/-! ### Bursts -/

/-- `TEXT[i]`: the byte written last, or no value if none was written since reset (R26, R38). -/
def Memory.read : Memory → Nat → Option Byte
  | [], _ => none
  | c :: m, a => if c.1 = a then some c.2 else Memory.read m a

/-- `AF[i]`, its index 3 bits wide (R50). -/
def afByte (p : Params) (i : BitVec 3) : Byte := p.af[i.toNat]

/-- The first two bytes of block C of a PS burst (R132): PI again in variant B, two AF bytes in variant A. -/
def psBlockC (p : Params) (varb : Bool) (seg : BitVec 4) : Byte × Byte :=
  if varb then (hi8 p.pi, lo8 p.pi)
  else (afByte p (BitVec.ofNat 3 (2 * seg.toNat)), afByte p (BitVec.ofNat 3 (2 * seg.toNat + 1)))

/-- The PS burst, `ps_burst(seg)` (R132, R81); no value if a TEXT byte it reads was never written. -/
def psBurst (p : Params) (text : Memory) (varb stereo : Bool) (pty : BitVec 5) (seg : BitVec 4) :
    Option (Vector Byte 8) :=
  match text.read (2 * seg.toNat), text.read (2 * seg.toNat + 1) with
  | some t0, some t1 =>
    some #v[hi8 p.pi, lo8 p.pi, hi8 (gwPs p varb stereo pty seg), lo8 (gwPs p varb stereo pty seg),
      (psBlockC p varb seg).1, (psBlockC p varb seg).2, t0, t1]
  | _, _ => none

/-- The RT burst, `rt_burst(seg)` (R152, R82); no value if a TEXT byte it reads was never written. -/
def rtBurst (p : Params) (text : Memory) (ab : Bool) (pty : BitVec 5) (seg : BitVec 4) : Option (Vector Byte 8) :=
  match text.read (4 * seg.toNat), text.read (4 * seg.toNat + 1), text.read (4 * seg.toNat + 2),
      text.read (4 * seg.toNat + 3) with
  | some t0, some t1, some t2, some t3 =>
    some #v[hi8 p.pi, lo8 p.pi, hi8 (gwRt p ab pty seg), lo8 (gwRt p ab pty seg), t0, t1, t2, t3]
  | _, _, _, _ => none

/-- The bytes the BURST step is about to write (R104). -/
def State.burstBytes (s : State) : Option (Vector Byte 8) :=
  match s.mode with
  | .ps => psBurst s.params s.text s.lVarb s.lStereo s.lPty s.seg
  | .rt => rtBurst s.params s.text s.lAb s.lPty s.seg

/-- The read-back byte that is kept, byte index `P_STATUS_INDEX` (R103). -/
def statusByte (p : Params) (rb : Vector Byte 7) : Byte :=
  rb[p.source.statusIndex]'(by rw [p.source_ok]; decide)

/-- The byte the TOGGLE step writes: `RB3 ^ (1 << P_TOGGLE_BIT)` (R105). -/
def toggled (p : Params) (rb3 : Byte) : Byte := rb3 ^^^ (1#8 <<< p.source.toggleBit)

/-- The last segment of a send (R107): segments are numbered from 0. -/
def lastSegOf (p : Params) : Mode → BitVec 4
  | .ps => BitVec.ofNat 4 (p.source.psSegments - 1)
  | .rt => BitVec.ofNat 4 (p.source.rtSegments - 1)

/-! ### What a transaction is on the bus -/

/-- The chip registers a write addresses, with the byte sent to each (R53): the device increments the register per byte,
in its 8-bit sub-address space (R50). -/
def cellsFrom (sub : Byte) : List Byte → List (Byte × Byte)
  | [] => []
  | b :: bs => (sub, b) :: cellsFrom (sub + 1#8) bs

/-- The chip registers an event's transaction addresses, with the byte sent to each (R53). DESIGN CHOICE: the acknowledgement makes
no difference. After OK each register has received its byte; after FAIL the spec leaves open which of them did (R104, U3), and
the list says only what was sent where (log 29). -/
def Event.chipCells : Event → List (Byte × Byte)
  | .busWrite _ sub bytes _ => cellsFrom sub bytes
  | _ => []

/-- The bytes after the device address (R83): the sub-address and the data of a write; the received bytes of a read. -/
def Event.wireBytes : Event → List Byte
  | .busWrite _ sub bytes _ => sub :: bytes
  | .busRead _ _ bytes _ => bytes
  | _ => []

/-- The address byte on the wire, the 7-bit address followed by the read/write bit (R65: informational; log 24). -/
def addressByte (dev : BitVec 7) (isRead : Bool) : Byte := dev ++ BitVec.ofBool isRead

end Sys2Proof.Machine
end

