-- ==== Sys2Proof/Machine/Ops.lean ====
section
/-! DEFINITION. The operations the commands and the sequencer steps share: memory, the trace (R9), raising an error (R200), command
acceptance (R100), send start (R102), completion (R108), abort (R109), reset (R230). -/

namespace Sys2Proof.Machine

/-- `TEXT[a] <- b`, keeping the canonical form (R174). -/
def Memory.write : Memory → Nat → Byte → Memory
  | [], a, b => [(a, b)]
  | c :: m, a, b =>
    if a < c.1 then (a, b) :: c :: m
    else if a = c.1 then (a, b) :: m
    else c :: Memory.write m a b

/-- `TEXT[i] <- b` (R174): the file has `TEXT[0]` to its last byte and no other (R50). A LOAD_TEXT index always names one of them
(R77). -/
def State.storeText (s : State) (i : Nat) (b : Byte) : State :=
  if i < s.params.source.textBytes then { s with text := s.text.write i b } else s

/-- `Emit(e)` (R9). -/
def State.emit (s : State) (e : Event) : State := { s with trace := s.trace ++ [e] }

/-- `raise Err(code)` (R9, R200): what every error does. "Only the code in `STATUS.ERR` and the trace event are kept" (R206):
nothing is saved, no mode changes and there is no vector, so there is no return from it either (R207). -/
def State.raiseErr (s : State) (code : ErrCode) (e : Event) : State := (s.setErr code).emit e

/-- A word is turned away: ILLEGAL_CMD (R201) or BUSY_REJECT (R202). -/
def State.reject (s : State) (w : Word) (code : ErrCode) : State := s.raiseErr code (.reject w code)

/-- A word is accepted: `STATUS.ERR <- 0`, `Emit(Accept(w))` (R100). -/
def State.accept (s : State) (w : Word) : State := (s.setErr .none).emit (.accept w)

/-- Command acceptance for a decoded command (R100): while a send runs it is rejected whatever it is (R202, R205 (a)), otherwise it
is accepted and has its effect in the same step. -/
def acceptCommand (w : Word) (effect : State → State) (s : State) : Host.Outcome State Fault Refusal :=
  if s.phase = .idle then .next (effect (s.accept w)) else .next (s.reject w .busyReject)

/-- `start_send(m, vb, st, ab, ptyin)` (R102). -/
def startSend (m : Mode) (vb st ab : Bool) (ptyin : Byte) (s : State) : State :=
  ({ s with mode := m, lVarb := vb, lStereo := st, lAb := ab, lPty := ptyOf ptyin, seg := 0#4, phase := .read }).setBusy true

/-- `complete()` (R108). -/
def State.complete (s : State) : State :=
  let s :=
    match s.mode with
    | .ps => { s with cntPs := (s.cntPs + 1) % 2 ^ s.params.cntW }
    | .rt => { s with cntRt := (s.cntRt + 1) % 2 ^ s.params.cntW }
  (({ s with phase := .idle }).setBusy false).emit (.done s.mode)

/-- `abort()` (R109, R203). -/
def State.abort (s : State) : State :=
  (({ s with phase := .idle }).setBusy false).raiseErr .busAbort (.abort .busAbort)

/-- `BusWrite(P_DEV_ADDR, sub, bytes)` with its acknowledgement, recorded (R9). -/
def State.busWrite (s : State) (sub : Byte) (bytes : List Byte) (ack : Ack) : State :=
  s.emit (.busWrite s.params.source.devAddr sub bytes ack)

/-- `BusRead(P_DEV_ADDR, P_STATUS_READ_LEN)` with its answer, recorded (R9). -/
def State.busRead (s : State) (bytes : Vector Byte 7) (ack : Ack) : State :=
  s.emit (.busRead s.params.source.devAddr s.params.source.statusReadLen bytes.toList ack)

/-- The reset step (R230): every element of the block takes its reset value (R38; log 7 for RB3 and BURST), a send in progress is
abandoned, and answers to earlier requests no longer count (log 4). The parameters are those of the instance, and what the
other agents do next and the observation so far are not the block's. -/
def State.resetBlock (s : State) : State :=
  { State.reset with params := s.params, inputs := s.inputs, epoch := s.epoch + 1, trace := s.trace }

end Sys2Proof.Machine
end

