-- ==== Sys2Proof/Machine/Counters.lean ====
section
/-! DEFINITION. GETPS and GETRT (43_counters_text.md, section 1). -/

namespace Sys2Proof.Machine

/-- GET_PS (R170): RESULT takes the value before the reset. -/
def execGetps (rst : Bool) (s : State) : Host.Outcome State Fault Refusal :=
  acceptCommand (encode (.getps rst))
    (fun s => { s with result := s.cntPs, cntPs := if rst then 0 else s.cntPs }) s

/-- GET_RT (R171): RESULT takes the value before the reset. -/
def execGetrt (rst : Bool) (s : State) : Host.Outcome State Fault Refusal :=
  acceptCommand (encode (.getrt rst))
    (fun s => { s with result := s.cntRt, cntRt := if rst then 0 else s.cntRt }) s

end Sys2Proof.Machine
end

