-- ==== Sys2Proof/Machine/Ps.lean ====
section
/-! DEFINITION. SENDPS (41_ps.md). The segments that follow are the sequencer's (Machine/Sequencer.lean). -/

namespace Sys2Proof.Machine

/-- SEND_PS (R130): starts a PS send. -/
def execSendps (pty : Byte) (vb st : Bool) (s : State) : Host.Outcome State Fault Refusal :=
  acceptCommand (encode (.sendps pty vb st)) (startSend .ps vb st false pty) s

end Sys2Proof.Machine
end

