-- ==== Sys2Proof/Machine/Rt.lean ====
section
/-! DEFINITION. SENDRT (42_rt.md). The segments that follow are the sequencer's (Machine/Sequencer.lean). -/

namespace Sys2Proof.Machine

/-- SEND_RT (R150): starts an RT send. -/
def execSendrt (pty : Byte) (ab : Bool) (s : State) : Host.Outcome State Fault Refusal :=
  acceptCommand (encode (.sendrt pty ab)) (startSend .rt false false ab pty) s

end Sys2Proof.Machine
end

