-- ==== Sys2Proof/Machine/Text.lean ====
section
/-! DEFINITION. LDTXT (43_counters_text.md, section 2). -/

namespace Sys2Proof.Machine

/-- LOAD_TEXT (R174): the byte is stored verbatim. -/
def execLdtxt (idx : BitVec 6) (byte : Byte) (s : State) : Host.Outcome State Fault Refusal :=
  acceptCommand (encode (.ldtxt idx byte)) (fun s => s.storeText idx.toNat byte) s

end Sys2Proof.Machine
end

