-- ==== Sys2Proof/Machine/Dispatch.lean ====
section
/-! DEFINITION. One arm per command (R100: the dispatched command's own rule). -/

namespace Sys2Proof.Machine

/-- What a decoded command does when it is presented: the whole acceptance step of R100, busy check included. -/
def exec (i : Instr) (s : State) : Host.Outcome State Fault Refusal :=
  match i with
  | .sendps pty vb st => Sys2Proof.Machine.execSendps pty vb st s
  | .sendrt pty ab => Sys2Proof.Machine.execSendrt pty ab s
  | .getps rst => Sys2Proof.Machine.execGetps rst s
  | .getrt rst => Sys2Proof.Machine.execGetrt rst s
  | .ldtxt idx byte => Sys2Proof.Machine.execLdtxt idx byte s

end Sys2Proof.Machine
end

