-- ==== Sys2Proof/Machine/Sequencer.lean ====
section
/-! DEFINITION. The steps of the segment sequence (40_sequencer.md R103 to R107). Each is one transaction or wait (R6); its answer is
the argument. -/

namespace Sys2Proof.Machine

/-- The READ step (R103): on FAIL the bytes are ignored, otherwise byte index 3 is kept and the others are discarded. -/
def readStep (ack : Ack) (rb : Vector Byte 7) (s : State) : State :=
  match ack with
  | .fail => (s.busRead rb .fail).abort
  | .ok => { s.busRead rb .ok with rb3 := statusByte s.params rb, phase := .burst }

/-- `BusWrite(P_DEV_ADDR, P_RDS_BASE, BURST[0..7])` (R104): the scratch buffer is filled and its `P_RDS_LEN` bytes are written. -/
def State.writeBurst (s : State) (bytes : Vector Byte 8) (ack : Ack) : State :=
  ({ s with burst := bytes }).busWrite s.params.source.rdsBase (bytes.toList.take s.params.source.rdsLen) ack

/-- The BURST step (R104). A TEXT byte never written since reset is the fault of R216 (a), before anything is written. -/
def burstStep (ack : Ack) (s : State) : Host.Outcome State Fault Refusal :=
  match s.burstBytes, ack with
  | none, _ => .fault .unwrittenText
  | some bytes, .fail => .next (s.writeBurst bytes .fail).abort
  | some bytes, .ok => .next { s.writeBurst bytes .ok with phase := .toggle }

/-- The TOGGLE step (R105): the handshake write, then the pacing timer is started. -/
def toggleStep (ack : Ack) (s : State) : State :=
  match ack with
  | .fail => (s.busWrite s.params.toggleReg.addr [toggled s.params s.rb3] .fail).abort
  | .ok =>
    { (s.busWrite s.params.toggleReg.addr [toggled s.params s.rb3] .ok).emit (.timerStart s.params.paceMs) with phase := .wait }

/-- The WAIT step (R107): the next segment, or completion after the last. -/
def waitStep (s : State) : State :=
  let s := s.emit .timerElapsed
  if s.seg = lastSegOf s.params s.mode then s.complete else { s with seg := s.seg + 1#4, phase := .read }

end Sys2Proof.Machine
end

