-- ==== Sys2Proof/Machine/Port.lean ====
section
/-! DEFINITION. What the sequencer does with one move of another agent (R5, R101), and when there is none. -/

namespace Sys2Proof.Machine

/-- A word on the command port (R100): the busy check, then decoding, then the command. -/
def presentWord (w : Word) (s : State) : Host.Outcome State Fault Refusal :=
  if s.phase = .idle then
    match decode w with
    | .error _ => .next (s.reject w .illegalCmd)
    | .ok i => exec i s
  else .next (s.reject w .busyReject)

/-- An answer to a status read-back counts if it answers this epoch's request and the READ step is waiting for it (R103, R230 (d));
any other is ignored (log 4, log 5). -/
def readReplyStep (epoch : Nat) (ack : Ack) (rb : Vector Byte 7) (s : State) : Host.Outcome State Fault Refusal :=
  if epoch = s.epoch ∧ s.phase = .read then .next (readStep ack rb s) else .next s

/-- An acknowledgement of a write, for the BURST or the TOGGLE step (R104, R105); any other is ignored. -/
def writeAckStep (epoch : Nat) (ack : Ack) (s : State) : Host.Outcome State Fault Refusal :=
  if epoch = s.epoch then
    match s.phase with
    | .burst => burstStep ack s
    | .toggle => .next (toggleStep ack s)
    | .idle | .read | .wait => .next s
  else .next s

/-- `TimerElapsed`, for the WAIT step (R107); one for a request made before a reset is ignored (R230 (c)). -/
def timerStep (epoch : Nat) (s : State) : Host.Outcome State Fault Refusal :=
  if epoch = s.epoch ∧ s.phase = .wait then .next (waitStep s) else .next s

/-- Another agent accesses the chip: a fault while BUSY (R216 (b), R237), of no concern to the block otherwise (log 14). -/
def foreignStep (s : State) : Host.Outcome State Fault Refusal :=
  if s.busy then .fault .foreignDeviceAccess else .next s

/-- No agent moves: the block is idle or held (R107, R112, R216 (c); log 3), but a BURST step that reads an unwritten TEXT byte has
no transaction to wait for (R216 (a); log 6). -/
def noInput (s : State) : Host.Outcome State Fault Refusal :=
  if s.phase = .burst ∧ s.burstBytes = none then .fault .unwrittenText else .next s

/-- The step for one move of another agent. -/
def onInput : Input → State → Host.Outcome State Fault Refusal
  | .command w, s => presentWord w s
  | .readReply epoch ack rb, s => readReplyStep epoch ack rb s
  | .writeAck epoch ack, s => writeAckStep epoch ack s
  | .timerElapsed epoch, s => timerStep epoch s
  | .rst, s => .next s.resetBlock
  | .foreignAccess, s => foreignStep s

end Sys2Proof.Machine
end

