-- ==== Sys2Proof/Machine/Step.lean ====
section
/-! DEFINITION. The step: one atomic transition (R6), the next move of the other agents taken from `State.inputs` (log 1). -/

namespace Sys2Proof.Machine

/-- One step of the machine. -/
def step (s : State) : Host.Outcome State Fault Refusal :=
  match s.inputs with
  | [] => noInput s
  | i :: rest => onInput i { s with inputs := rest }

/-- The host presents the word next, before whatever else is to happen (R28, R232; log 16). -/
def State.withFetchWord (s : State) (nbits w : Nat) : State :=
  { s with inputs := .command (wordOfBits nbits w) :: s.inputs }

end Sys2Proof.Machine
end

