-- ==== Sys2Proof/Machine/Assembler.lean ====
section
/-! DEFINITION. The assembler (R85, R86): a checked statement becomes the commands it stands for. -/

namespace Sys2Proof

/-- A literal as a value of `n` bits; the check has made sure that it fits. -/
def Literal.bits (n : Nat) (l : Literal) : BitVec n := BitVec.ofNat n l.value

/-- A literal as a flag: 1 is true (R76). -/
def Literal.flag (l : Literal) : Bool := decide (l.value = 1)

/-- `byte(c)` (R86): the ASCII code of a printable character. -/
def byteOfChar (c : Char) : Byte := BitVec.ofNat 8 c.toNat

/-- `LDSTR idx, "s"` (R86): one LDTXT per character, in increasing index. -/
def loadString : Nat → List Char → List Instr
  | _, [] => []
  | idx, c :: cs => .ldtxt (BitVec.ofNat 6 idx) (byteOfChar c) :: loadString (idx + 1) cs

/-- The commands a statement stands for, its operands in range. WAITIDLE emits none: it is the host's wait until `BUSY` is 0. -/
def Stmt.expand : Stmt → List Instr
  | .sendps pty vb st => [.sendps (pty.bits 8) vb.flag st.flag]
  | .sendrt pty ab => [.sendrt (pty.bits 8) ab.flag]
  | .getps rst => [.getps rst.flag]
  | .getrt rst => [.getrt rst.flag]
  | .ldtxt idx byte => [.ldtxt (idx.bits 6) (byte.bits 8)]
  | .ldstr idx text => loadString idx.value text
  | .ldps text => loadString 0 text
  | .ldrt text => loadString 0 text
  | .waitidle => []

/-- Assembling one statement: its command words, or an assembly error (R85). -/
def assemble (st : Stmt) : Option (List Word) := if st.check then some (st.expand.map encode) else none

end Sys2Proof
end

