-- ==== Sys2Proof/Safety.lean ====
section
/-! DEFINITION. The terms statements are made in: the invariant of R39, held and final states (R216), and the moves and events of one
segment of a send (R110). -/

namespace Sys2Proof.Safety
open Sys2Proof.Machine

/-- The invariants of every reachable state (R39 (a), (b), (c)), with what R24, R25 and R27 say of the counters' width, what R29
says of the reserved bits, and TEXT's canonical form. -/
structure Inv (s : State) : Prop where
  /-- R39 (a), R31. -/
  busy_iff : s.busy = true ↔ s.phase ≠ .idle
  /-- R39 (b), R32. -/
  seg_range : s.phase ≠ .idle → s.mode = .ps → s.seg ≤ 3#4
  /-- R39 (c). -/
  err_range : s.err ≤ 3#3
  /-- R29: bits 7:4 are 0. -/
  reserved : s.status.extractLsb' 4 4 = 0#4
  /-- R24. -/
  cntPs_width : s.cntPs < 2 ^ s.params.cntW
  /-- R25. -/
  cntRt_width : s.cntRt < 2 ^ s.params.cntW
  /-- R27. -/
  result_width : s.result < 2 ^ s.params.cntW
  /-- R26, R50. -/
  text_wf : s.text.wf = true

/-- The block is held: it waits for an answer and no agent moves (R216 (c)). -/
def Held (s : State) : Prop := s.phase ≠ .idle ∧ s.inputs = []

/-- A run may end here: nothing more happens and no send runs (R216 (d): "a state with `BUSY = 1` is never the end of a run"). -/
def Final (s : State) : Prop := s.busy = false ∧ s.inputs = []

/-- The host's WAITIDLE returns (R86: it "reads `STATUS` until `BUSY = 0`"). -/
def WaitIdleReturns (s : State) : Prop := statusBusy s.statusPort = false

/-- `k` steps, stopping at the first fault. -/
def runSteps (k : Nat) (s : State) : Host.Outcome State Fault Refusal := Host.Core.run Sys2Proof.core k s

/-- The last segment of a send, as R107 writes it. -/
def lastSeg : Mode → BitVec 4
  | .ps => 3#4
  | .rt => 15#4

/-- The event is a bus transaction. -/
def isBus : Event → Bool
  | .busWrite _ _ _ _ => true
  | .busRead _ _ _ _ => true
  | _ => false

/-- The answers that carry one segment through: read-back bytes, two acknowledgements, the end of the wait (R60, R110). -/
def segmentInputs (epoch : Nat) (rb : Vector Byte 7) : List Input :=
  [.readReply epoch .ok rb, .writeAck epoch .ok, .writeAck epoch .ok, .timerElapsed epoch]

/-- The trace of one segment (R110): `rb` is the read-back and `burst` the data written. -/
def segmentTrace (p : Params) (rb : Vector Byte 7) (burst : List Byte) : List Event :=
  [.busRead 0x2B#7 7 rb.toList .ok, .busWrite 0x2B#7 0x10#8 burst .ok,
   .busWrite 0x2B#7 p.toggleReg.addr [rb[3] ^^^ 0x04#8] .ok, .timerStart p.paceMs, .timerElapsed]

end Sys2Proof.Safety
end

