-- ==== Sys2Proof/Certificates/Slice0/Obligations.lean ====
section
/-! DEFINITION. The statements for the provers. Each says which rule of spec/ it formalises, or that it is derived and from what. -/

open Sys2Proof Sys2Proof.Machine Sys2Proof.Safety

/-! ### Encoding (30_encoding.md) -/

/-- Decoding the word of a command gives the command back, every operand at every value (R74, R85). -/
def Obligations.DecodeEncodeRoundTrip : Prop := ∀ i : Instr, decode (encode i) = .ok i

/-- A word that decodes is the word of its command: each command has one word. -/
def Obligations.EncodeDecodeRoundTrip : Prop := ∀ (w : Word) (i : Instr), decode w = .ok i → encode i = w

/-- The decoder of R74 in arithmetic: the fields of R70, the opcodes of R71, the must-be-zero fields of R72. -/
def Obligations.DecoderReadsFields : Prop :=
  ∀ w : Word,
    (∀ pty vb st, decode w = .ok (.sendps pty vb st) ↔
      w.toNat % 16 = 1 ∧ w.toNat / 64 % 4 = 0 ∧ w.toNat / 65536 = 0 ∧
        pty.toNat = w.toNat / 256 % 256 ∧ vb.toNat = w.toNat / 16 % 2 ∧ st.toNat = w.toNat / 32 % 2) ∧
    (∀ pty ab, decode w = .ok (.sendrt pty ab) ↔
      w.toNat % 16 = 2 ∧ w.toNat / 32 % 8 = 0 ∧ w.toNat / 65536 = 0 ∧
        pty.toNat = w.toNat / 256 % 256 ∧ ab.toNat = w.toNat / 16 % 2) ∧
    (∀ rst, decode w = .ok (.getps rst) ↔
      w.toNat % 16 = 3 ∧ w.toNat / 32 = 0 ∧ rst.toNat = w.toNat / 16 % 2) ∧
    (∀ rst, decode w = .ok (.getrt rst) ↔
      w.toNat % 16 = 4 ∧ w.toNat / 32 = 0 ∧ rst.toNat = w.toNat / 16 % 2) ∧
    (∀ idx byte, decode w = .ok (.ldtxt idx byte) ↔
      w.toNat % 256 = 5 ∧ w.toNat / 4194304 = 0 ∧
        byte.toNat = w.toNat / 256 % 256 ∧ idx.toNat = w.toNat / 65536 % 64)

/-- The decoder and spec/opcode_table.json agree: a word decodes to a row's command exactly when its masked bits are the row's
pattern, and is ILLEGAL exactly when no row matches (R74, last paragraph). -/
def Obligations.TableRowsAreTheDecoder : Prop :=
  ∀ w : Word,
    (∀ r ∈ opcodeTable, r.Matches w ↔ ∃ i, decode w = .ok i ∧ i.mnemonic = r.mnemonic) ∧
    ((∃ e, decode w = .error e) ↔ ∀ r ∈ opcodeTable, ¬ r.Matches w)

/-- No word matches two rows (R74: "The rows are disjoint because each fixes a distinct `OP`"). -/
def Obligations.TableRowsDisjoint : Prop :=
  ∀ (w : Word) (r₁ r₂ : OpcodeRow), r₁ ∈ opcodeTable → r₂ ∈ opcodeTable → r₁.Matches w → r₂.Matches w → r₁ = r₂

/-- Words the spec writes out (R85 and 95_test_vectors.md, section 2.1), legal and illegal. A sanity check on fixed words. -/
def Obligations.SpecWordsDecode : Prop :=
  decode 0x00000221#32 = .ok (.sendps 2#8 false true) ∧
  decode 0x00000211#32 = .ok (.sendps 2#8 true false) ∧
  decode 0x00000A12#32 = .ok (.sendrt 10#8 true) ∧
  decode 0x00000013#32 = .ok (.getps true) ∧
  decode 0x00000004#32 = .ok (.getrt false) ∧
  decode 0x00073205#32 = .ok (.ldtxt 7#6 0x32#8) ∧
  decode 0x00000000#32 = .error .unassignedOpcode ∧
  decode 0x00010001#32 = .error .mustBeZeroField ∧
  decode 0x80000003#32 = .error .reservedBits

/-- The examples of R85 and a string of R86 assemble to the words the spec gives; an operand out of range is an error. -/
def Obligations.AssemblerExamples : Prop :=
  assemble (.sendps (.num 2) (.num 0) (.num 1)) = some [0x00000221#32] ∧
  assemble (.sendrt (.num 10) (.num 1)) = some [0x00000A12#32] ∧
  assemble (.getps (.num 1)) = some [0x00000013#32] ∧
  assemble (.ldtxt (.num 7) (.num 0x32)) = some [0x00073205#32] ∧
  assemble (.ldtxt (.num 0) (.chr 'T')) = some [0x00005405#32] ∧
  assemble (.ldstr (.num 5) ['M', '1']) = some [0x00054D05#32, 0x00063105#32] ∧
  assemble .waitidle = some [] ∧
  assemble (.ldtxt (.num 64) (.num 0)) = none ∧
  assemble (.getrt (.num 2)) = none

/-- The written form of every command assembles to its word (R85). -/
def Obligations.AssembleWrittenForm : Prop := ∀ i : Instr, assemble i.toStmt = some [encode i]

/-- `LDSTR idx, "s"` is one LDTXT per character in increasing index (R86). -/
def Obligations.LoadStringExpands : Prop :=
  ∀ (n : Nat) (text : List Char), (Stmt.ldstr (.num n) text).check = true →
    ∃ ws, assemble (.ldstr (.num n) text) = some ws ∧ ws.length = text.length ∧
      ∀ (k : Nat) (c : Char), text[k]? = some c →
        ws[k]? = some (encode (.ldtxt (BitVec.ofNat 6 (n + k)) (BitVec.ofNat 8 c.toNat))) ∧ n + k < 64

/-! ### The command port (40_sequencer.md R100, 60_exceptions.md R200 to R202) -/

/-- A step runs the decoded command: a presented word that decodes to `i` is `exec i` at the state with the word taken off the
port; so is a word placed by `withFetchWord`. -/
def Obligations.StepRunsDecodedCommand : Prop :=
  ∀ (s : State) (w : Word) (i : Instr), decode w = .ok i →
    (∀ rest, s.inputs = .command w :: rest → step s = exec i { s with inputs := rest }) ∧
    step (s.withFetchWord 32 w.toNat) = exec i s

/-- R202: while a send runs, any word, legal or not, sets `ERR` to 2 and is recorded, and changes nothing else. -/
def Obligations.BusyWordRejected : Prop :=
  ∀ (s : State) (w : Word) (rest : List Input), s.inputs = .command w :: rest → s.phase ≠ .idle →
    step s = .next { s with inputs := rest, status := packStatus s.busy 2#3,
                            trace := s.trace ++ [.reject w .busyReject] }

/-- R201: a word that does not decode, in IDLE, sets `ERR` to 1 and is recorded, and changes nothing else. -/
def Obligations.IllegalWordRejected : Prop :=
  ∀ (s : State) (w : Word) (e : Illegal) (rest : List Input), s.inputs = .command w :: rest → s.phase = .idle →
    decode w = .error e →
    step s = .next { s with inputs := rest, status := packStatus s.busy 1#3,
                            trace := s.trace ++ [.reject w .illegalCmd] }

/-- The frame of every command presented while a send runs: it changes `STATUS.ERR` and the trace, nothing else. -/
def Obligations.BusyCommandChangesOnlyErr : Prop :=
  ∀ (i : Instr) (s : State), s.phase ≠ .idle →
    exec i s = .next { s with status := packStatus s.busy 2#3, trace := s.trace ++ [.reject (encode i) .busyReject] }

/-- R29: the fields of STATUS as the host reads it. In every state with the invariant of R39, the register is what the port
shows, `BUSY` is 1 exactly while a send runs, and `ERR` is at most 3. -/
def Obligations.StatusRegisterFields : Prop :=
  ∀ s : State, Inv s →
    s.statusPort = s.status ∧
    s.statusPort.toNat = (if s.phase = .idle then 0 else 1) + 2 * s.err.toNat ∧ s.err.toNat ≤ 3

/-! ### The commands -/

/-- R102: SENDPS and SENDRT in IDLE latch their operands (`L_PTY <- ptyin[4:0]`), set `SEG` to 0, `PHASE` to READ and `BUSY` to 1,
`ERR` to 0, and change nothing else. -/
def Obligations.SendCommandsStart : Prop :=
  ∀ (s : State), s.phase = .idle → ∀ (pty : Byte) (vb st ab : Bool),
    exec (.sendps pty vb st) s =
      .next { s with mode := .ps, lVarb := vb, lStereo := st, lAb := false, lPty := BitVec.ofNat 5 (pty.toNat % 32),
                     seg := 0#4, phase := .read, status := packStatus true 0#3,
                     trace := s.trace ++ [.accept (encode (.sendps pty vb st))] } ∧
    exec (.sendrt pty ab) s =
      .next { s with mode := .rt, lVarb := false, lStereo := false, lAb := ab, lPty := BitVec.ofNat 5 (pty.toNat % 32),
                     seg := 0#4, phase := .read, status := packStatus true 0#3,
                     trace := s.trace ++ [.accept (encode (.sendrt pty ab))] }

/-- GETPS and GETRT in IDLE: `RESULT` takes the counter's value, the counter is cleared if `rst`, `ERR` is 0, nothing else
changes (the pseudocode and corner cases of R170 and R171). -/
def Obligations.GetCommandsReadAndClear : Prop :=
  ∀ (s : State), s.phase = .idle → ∀ rst : Bool,
    exec (.getps rst) s =
      .next { s with result := s.cntPs, cntPs := if rst then 0 else s.cntPs, status := packStatus s.busy 0#3,
                     trace := s.trace ++ [.accept (encode (.getps rst))] } ∧
    exec (.getrt rst) s =
      .next { s with result := s.cntRt, cntRt := if rst then 0 else s.cntRt, status := packStatus s.busy 0#3,
                     trace := s.trace ++ [.accept (encode (.getrt rst))] }

/-- A read with reset returns the count, and a read right after it returns 0, for both counters (R172's consequence). -/
def Obligations.ReadAfterClearingReadIsZero : Prop :=
  ∀ (s : State), s.phase = .idle → ∀ rst : Bool,
    (∃ t u, exec (.getps true) s = .next t ∧ exec (.getps rst) t = .next u ∧
      t.result = s.cntPs ∧ u.result = 0 ∧ u.cntPs = 0 ∧ u.cntRt = s.cntRt) ∧
    (∃ t u, exec (.getrt true) s = .next t ∧ exec (.getrt rst) t = .next u ∧
      t.result = s.cntRt ∧ u.result = 0 ∧ u.cntRt = 0 ∧ u.cntPs = s.cntPs)

/-- LDTXT in IDLE: the indexed byte of TEXT reads as written, every other byte as before, TEXT keeps its canonical form, `ERR` is
0, nothing else changes (the pseudocode and corner cases of R174). -/
def Obligations.LoadTextWritesOneByte : Prop :=
  ∀ (s : State) (idx : BitVec 6) (byte : Byte), s.phase = .idle →
    ∃ t, exec (.ldtxt idx byte) s = .next t ∧
      t.text.read idx.toNat = some byte ∧
      (∀ a, a ≠ idx.toNat → t.text.read a = s.text.read a) ∧
      (s.text.wf = true → t.text.wf = true) ∧
      t = { s with text := t.text, status := packStatus s.busy 0#3,
                   trace := s.trace ++ [.accept (encode (.ldtxt idx byte))] }

/-! ### Group words and bursts (30_encoding.md, 41_ps.md, 42_rt.md)

The bit positions are the IEC 62106 layout of R79, which the spec marks as general knowledge (log 10). -/

/-- The PS group word, field by field, for every instance (R79, R80, R131; positions: log 10). -/
def Obligations.PsGroupWordLayout : Prop :=
  ∀ (p : Params) (varb stereo : Bool) (pty : BitVec 5) (k : Nat), k < 4 →
    (gwPs p varb stereo pty (BitVec.ofNat 4 k)).toNat =
      2048 * varb.toNat + 1024 * p.tp.toNat + 32 * pty.toNat + 16 * p.ta.toNat + 8 * p.ms.toNat +
        4 * (if k = 3 ∧ stereo = true then 1 else 0) + k

/-- The RT group word, field by field, for every instance (R79, R80, R151; positions: log 10). -/
def Obligations.RtGroupWordLayout : Prop :=
  ∀ (p : Params) (ab : Bool) (pty : BitVec 5) (seg : BitVec 4),
    (gwRt p ab pty seg).toNat = 8192 + 1024 * p.tp.toNat + 32 * pty.toNat + 16 * ab.toNat + seg.toNat

/-- The two group-0 templates differ only in the version bit, `0x0800`, in every instance (R80, L1-6; position: log 10). -/
def Obligations.TemplatesDifferInVersionBit : Prop :=
  ∀ p : Params, tmpl0A p ^^^ tmpl0B p = 0x0800#16

/-- The stereo indicator, bit 2 of the PS group word, is 1 exactly in segment 3 with `stereo` 1, in both variants (R133; position:
log 10). -/
def Obligations.StereoBitOnlyInLastSegment : Prop :=
  ∀ (p : Params) (varb stereo : Bool) (pty : BitVec 5) (seg : BitVec 4),
    (gwPs p varb stereo pty seg).getLsbD 2 = (decide (seg = 3#4) && stereo)

/-- The text A/B bit, bit 4 of the RT group word, is `newTextFlag` in every segment (R153; position: log 10). -/
def Obligations.TextAbBitInEverySegment : Prop :=
  ∀ (p : Params) (ab : Bool) (pty : BitVec 5) (seg : BitVec 4), (gwRt p ab pty seg).getLsbD 4 = ab

/-- R132: the eight bytes of the PS burst of segment `k`, when the two TEXT bytes have been written: PI and group word high byte
first, AF or PI, text. -/
def Obligations.PsBurstBytes : Prop :=
  ∀ (p : Params) (text : Memory) (varb stereo : Bool) (pty : BitVec 5) (k : Nat) (hk : k < 4) (t0 t1 : Byte),
    text.read (2 * k) = some t0 → text.read (2 * k + 1) = some t1 →
    ∃ b, psBurst p text varb stereo pty (BitVec.ofNat 4 k) = some b ∧
      256 * b[0].toNat + b[1].toNat = p.pi.toNat ∧
      256 * b[2].toNat + b[3].toNat = (gwPs p varb stereo pty (BitVec.ofNat 4 k)).toNat ∧
      (varb = true → b[4] = b[0] ∧ b[5] = b[1]) ∧
      (varb = false → b[4] = p.af[2 * k] ∧ b[5] = p.af[2 * k + 1]) ∧
      b[6] = t0 ∧ b[7] = t1

/-- R152: the eight bytes of the RT burst of segment `k`, when the four TEXT bytes have been written. -/
def Obligations.RtBurstBytes : Prop :=
  ∀ (p : Params) (text : Memory) (ab : Bool) (pty : BitVec 5) (k : Nat), k < 16 → ∀ t0 t1 t2 t3 : Byte,
    text.read (4 * k) = some t0 → text.read (4 * k + 1) = some t1 →
    text.read (4 * k + 2) = some t2 → text.read (4 * k + 3) = some t3 →
    ∃ b, rtBurst p text ab pty (BitVec.ofNat 4 k) = some b ∧
      256 * b[0].toNat + b[1].toNat = p.pi.toNat ∧
      256 * b[2].toNat + b[3].toNat = (gwRt p ab pty (BitVec.ofNat 4 k)).toNat ∧
      b[4] = t0 ∧ b[5] = t1 ∧ b[6] = t2 ∧ b[7] = t3

/-- A PS cycle in variant A sends `AF[0]` to `AF[7]` in order, two a segment, whatever the text is (R134). -/
def Obligations.PsCycleSendsAfInOrder : Prop :=
  ∀ (p : Params) (text : Memory) (stereo : Bool) (pty : BitVec 5) (burst : Nat → Vector Byte 8),
    (∀ k, k < 4 → psBurst p text false stereo pty (BitVec.ofNat 4 k) = some (burst k)) →
    (List.range 4).flatMap (fun k => [(burst k)[4], (burst k)[5]]) = p.af.toList

/-- A PS cycle sends `TEXT[0..7]` in order, two bytes a segment (R135); an RT cycle sends `TEXT[0..63]`, four a segment (R154). -/
def Obligations.CyclesSendTextInOrder : Prop :=
  (∀ (p : Params) (text : Memory) (varb stereo : Bool) (pty : BitVec 5) (burst : Nat → Vector Byte 8),
    (∀ k, k < 4 → psBurst p text varb stereo pty (BitVec.ofNat 4 k) = some (burst k)) →
    (List.range 4).flatMap (fun k => [some (burst k)[6], some (burst k)[7]]) = (List.range 8).map text.read) ∧
  (∀ (p : Params) (text : Memory) (ab : Bool) (pty : BitVec 5) (burst : Nat → Vector Byte 8),
    (∀ k, k < 16 → rtBurst p text ab pty (BitVec.ofNat 4 k) = some (burst k)) →
    (List.range 16).flatMap (fun k => [some (burst k)[4], some (burst k)[5], some (burst k)[6], some (burst k)[7]]) =
      (List.range 64).map text.read)

/-! ### The sequencer (40_sequencer.md) -/

/-- R103: the READ step keeps byte index 3 of the read-back and goes to BURST; on FAIL it ignores the bytes and aborts. -/
def Obligations.ReadStepKeepsByteThree : Prop :=
  ∀ (s : State) (rb : Vector Byte 7) (rest : List Input), s.phase = .read →
    (s.inputs = .readReply s.epoch .ok rb :: rest →
      step s = .next { s with inputs := rest, rb3 := rb[3], phase := .burst,
                              trace := s.trace ++ [.busRead 0x2B#7 7 rb.toList .ok] }) ∧
    (s.inputs = .readReply s.epoch .fail rb :: rest →
      step s = .next { s with inputs := rest, phase := .idle, status := 0x06#8,
                              trace := s.trace ++ [.busRead 0x2B#7 7 rb.toList .fail, .abort .busAbort] })

/-- Two read-backs that agree in byte index 3 leave the block in the same state, the trace apart: the other bytes are discarded
(R34). -/
def Obligations.OtherReadBytesHaveNoEffect : Prop :=
  ∀ (s u : State) (rb rb' : Vector Byte 7) (rest : List Input) (t : State), rb[3] = rb'[3] →
    s.inputs = .readReply s.epoch .ok rb :: rest → u = { s with inputs := .readReply s.epoch .ok rb' :: rest } →
    step s = .next t → ∃ t', step u = .next t' ∧ { t' with trace := t.trace } = t

/-- R104: the BURST step writes the burst to sub-address 0x10 of device 0x2B and goes to TOGGLE; on FAIL it aborts. -/
def Obligations.BurstStepWritesBurst : Prop :=
  ∀ (s : State) (b : Vector Byte 8) (rest : List Input), s.phase = .burst → s.burstBytes = some b →
    s.burstBytes = (match s.mode with
      | .ps => psBurst s.params s.text s.lVarb s.lStereo s.lPty s.seg
      | .rt => rtBurst s.params s.text s.lAb s.lPty s.seg) ∧
    (s.inputs = .writeAck s.epoch .ok :: rest →
      step s = .next { s with inputs := rest, burst := b, phase := .toggle,
                              trace := s.trace ++ [.busWrite 0x2B#7 0x10#8 b.toList .ok] }) ∧
    (s.inputs = .writeAck s.epoch .fail :: rest →
      step s = .next { s with inputs := rest, burst := b, phase := .idle, status := 0x06#8,
                              trace := s.trace ++ [.busWrite 0x2B#7 0x10#8 b.toList .fail, .abort .busAbort] })

/-- R105: the TOGGLE step writes `RB3 ^ 0x04` to `P_TOGGLE_REG`, starts the timer and goes to WAIT; on FAIL it aborts and starts no
timer. -/
def Obligations.ToggleStepHandshake : Prop :=
  ∀ (s : State) (rest : List Input), s.phase = .toggle →
    (s.inputs = .writeAck s.epoch .ok :: rest →
      step s = .next { s with inputs := rest, phase := .wait,
                              trace := s.trace ++ [.busWrite 0x2B#7 s.params.toggleReg.addr [s.rb3 ^^^ 0x04#8] .ok,
                                                   .timerStart s.params.paceMs] }) ∧
    (s.inputs = .writeAck s.epoch .fail :: rest →
      step s = .next { s with inputs := rest, phase := .idle, status := 0x06#8,
                              trace := s.trace ++ [.busWrite 0x2B#7 s.params.toggleReg.addr [s.rb3 ^^^ 0x04#8] .fail,
                                                   .abort .busAbort] })

/-- In every segment the byte written by the TOGGLE step differs from `RB3` in bit 2 and in no other bit (R106). -/
def Obligations.ToggleFlipsOnlyBitTwo : Prop :=
  ∀ (s t : State), s.phase = .toggle → step s = .next t → t.phase = .wait →
    ∃ b : Byte, t.trace = s.trace ++ [.busWrite 0x2B#7 s.params.toggleReg.addr [b] .ok, .timerStart s.params.paceMs] ∧
      ∀ i, i < 8 → (b.getLsbD i = s.rb3.getLsbD i ↔ i ≠ 2)

/-- R107: the WAIT step goes to the next segment's READ, before the last segment. -/
def Obligations.WaitStepAdvances : Prop :=
  ∀ (s : State) (rest : List Input), s.phase = .wait → s.inputs = .timerElapsed s.epoch :: rest →
    s.seg ≠ (match s.mode with | .ps => 3#4 | .rt => 15#4) →
    step s = .next { s with inputs := rest, seg := s.seg + 1#4, phase := .read, trace := s.trace ++ [.timerElapsed] }

/-- R108: the WAIT step of the last segment adds exactly 1 to the send's counter modulo 2^CNT_W, goes to IDLE, clears `BUSY` and
leaves `ERR` and everything else as they are. -/
def Obligations.CompletionCountsOneCycle : Prop :=
  ∀ (s : State) (rest : List Input), s.phase = .wait → s.inputs = .timerElapsed s.epoch :: rest →
    (s.mode = .ps → s.seg = 3#4 →
      step s = .next { s with inputs := rest, cntPs := (s.cntPs + 1) % 2 ^ s.params.cntW, phase := .idle,
                              status := packStatus false s.err, trace := s.trace ++ [.timerElapsed, .done .ps] }) ∧
    (s.mode = .rt → s.seg = 15#4 →
      step s = .next { s with inputs := rest, cntRt := (s.cntRt + 1) % 2 ^ s.params.cntW, phase := .idle,
                              status := packStatus false s.err, trace := s.trace ++ [.timerElapsed, .done .rt] })

/-- Derived from R109 and R203: whenever a bus transaction of a send returns FAIL, the send ends with `BUSY` 0 and `ERR` 3 (STATUS
0x06), the trace gains a bus transaction and `Abort(3)` and nothing else, so no timer starts; the counters, TEXT, RESULT, SEG,
RB3, the latches and the parameters keep their values. Which transaction the trace gains, and what BURST holds, is said step by
step in ReadStepKeepsByteThree, BurstStepWritesBurst and ToggleStepHandshake. -/
def Obligations.BusFailureAborts : Prop :=
  ∀ (s t : State) (rest : List Input),
    ((∃ rb, s.phase = .read ∧ s.inputs = .readReply s.epoch .fail rb :: rest) ∨
      ((s.phase = .burst ∨ s.phase = .toggle) ∧ s.inputs = .writeAck s.epoch .fail :: rest)) →
    step s = .next t →
    t.phase = .idle ∧ t.statusPort = 0x06#8 ∧ t.busy = false ∧ t.err = 3#3 ∧
      (∃ e, isBus e = true ∧ t.trace = s.trace ++ [e, .abort .busAbort]) ∧
      t = { s with inputs := rest, phase := .idle, status := t.status, trace := t.trace, burst := t.burst }

/-- While `PHASE = WAIT` only the timer's answer to this request, or a reset, moves the sequencer (R107: "only the timer lifts the
hold"; R230). -/
def Obligations.OnlyTimerOrResetEndsWait : Prop :=
  ∀ (s t : State), s.phase = .wait → step s = .next t → t.phase ≠ .wait →
    ∃ rest, s.inputs = .timerElapsed s.epoch :: rest ∨ s.inputs = .rst :: rest

/-- With no move of another agent the block is held, or idle: nothing changes (R107, R112, R216 (c); the fault of R216 (a)
apart). -/
def Obligations.HeldWithoutAnswer : Prop :=
  ∀ s : State, s.inputs = [] → (s.phase = .burst → ∃ b, s.burstBytes = some b) → step s = .next s

/-- R111: a send ends only by completion, by abort or by reset. -/
def Obligations.SendEndsOnlyThreeWays : Prop :=
  ∀ (s t : State), s.phase ≠ .idle → step s = .next t → t.phase = .idle →
    (s.phase = .wait ∧ s.seg = lastSeg s.mode ∧ t.trace = s.trace ++ [.timerElapsed, .done s.mode]) ∨
    (∃ e, isBus e = true ∧ t.trace = s.trace ++ [e, .abort .busAbort]) ∨
    (∃ rest, s.inputs = .rst :: rest)

/-- The three answers that move no longer count once a reset has come between: each is taken and ignored (R230 (c), (d); the
epoch that tells them apart is the model's, log 4). -/
def Obligations.StaleAnswersIgnored : Prop :=
  ∀ (s : State) (e : Nat) (ack : Ack) (rb : Vector Byte 7) (rest : List Input), e ≠ s.epoch →
    s.inputs = .readReply e ack rb :: rest ∨ s.inputs = .writeAck e ack :: rest ∨ s.inputs = .timerElapsed e :: rest →
    step s = .next { s with inputs := rest }

/-! ### Reset (70_reset_and_hazards.md, 10_state.md R38) -/

/-- A reset step from any state gives every element the value of R38 and issues no transaction (R230). That the epoch rises, so that
answers to earlier requests are stale, is the model's rendering of R230 (c), (d) (log 4, DEDUCED); that RST records no event and
leaves the trace and the moves still to come as they are is the model's choice (log 17, DESIGN CHOICE). RB3 and BURST, unspecified
after reset, are left open here. -/
def Obligations.ResetStepSetsEveryElement : Prop :=
  ∀ (s : State) (rest : List Input), s.inputs = .rst :: rest →
    ∃ t, step s = .next t ∧ t.params = s.params ∧ t.cntPs = 0 ∧ t.cntRt = 0 ∧ t.result = 0 ∧
      (∀ a, t.text.read a = none) ∧ t.statusPort = 0#8 ∧ t.phase = .idle ∧ t.seg = 0#4 ∧ t.mode = .ps ∧
      t.lVarb = false ∧ t.lStereo = false ∧ t.lAb = false ∧ t.lPty = 0#5 ∧
      t.trace = s.trace ∧ t.inputs = rest ∧ s.epoch < t.epoch

/-- R232: after reset the block is IDLE with `BUSY` 0, `ERR` 0, both counters 0 and `RESULT` 0, and accepts a command at its next
step. -/
def Obligations.ResetStateAcceptsCommand : Prop :=
  State.reset.phase = .idle ∧ State.reset.busy = false ∧ State.reset.err = 0#3 ∧ State.reset.statusPort = 0#8 ∧
  State.reset.cntPs = 0 ∧ State.reset.cntRt = 0 ∧ State.reset.result = 0 ∧
  ∀ i : Instr, ∃ t, step (State.reset.withFetchWord 32 (encode i).toNat) = .next t ∧ t.trace = [.accept (encode i)]

/-! ### Whole-machine rules -/

/-- The invariant of R39 (a) to (c), with the counters' width (R24, R25, R27), STATUS's reserved bits (R29) and TEXT's canonical
form: every step keeps it, whatever the other agents do. -/
def Obligations.StepKeepsInvariant : Prop := ∀ s s' : State, Inv s → step s = .next s' → Inv s'

/-- The invariant holds right after reset. -/
def Obligations.ResetMeetsInvariant : Prop := Inv State.reset

/-- The counters change only by R24 and R25, or by reset (R39 (d), R38): by one on completion of their send, to 0 by a GET with
reset accepted in IDLE. -/
def Obligations.CountersChangeOnlyByRule : Prop :=
  ∀ s s' : State, step s = .next s' →
    (s'.cntPs = s.cntPs ∨
      (s.phase = .wait ∧ s.mode = .ps ∧ s.seg = 3#4 ∧ s'.cntPs = (s.cntPs + 1) % 2 ^ s.params.cntW) ∨
      (s.phase = .idle ∧ s'.cntPs = 0 ∧ s'.result = s.cntPs ∧
        ∃ rest, s.inputs = .command (encode (.getps true)) :: rest) ∨
      (s'.cntPs = 0 ∧ ∃ rest, s.inputs = .rst :: rest)) ∧
    (s'.cntRt = s.cntRt ∨
      (s.phase = .wait ∧ s.mode = .rt ∧ s.seg = 15#4 ∧ s'.cntRt = (s.cntRt + 1) % 2 ^ s.params.cntW) ∨
      (s.phase = .idle ∧ s'.cntRt = 0 ∧ s'.result = s.cntRt ∧
        ∃ rest, s.inputs = .command (encode (.getrt true)) :: rest) ∨
      (s'.cntRt = 0 ∧ ∃ rest, s.inputs = .rst :: rest))

/-- TEXT changes only by an LDTXT accepted in IDLE, or by reset; so it does not change while a send runs (R26, R63). -/
def Obligations.TextChangesOnlyByLoadText : Prop :=
  ∀ s s' : State, step s = .next s' → s'.text ≠ s.text →
    (∃ rest, s.inputs = .rst :: rest) ∨
    (s.phase = .idle ∧ ∃ idx byte rest, s.inputs = .command (encode (.ldtxt idx byte)) :: rest ∧
      s'.text = s.text.write idx.toNat byte)

/-- The operands latched when a send is accepted stay fixed until it ends (R33), and the parameters, `PI` and `AF` among them, never
change (R22, R23, R39 (e)). -/
def Obligations.LatchesAndParametersFixed : Prop :=
  ∀ s s' : State, step s = .next s' →
    s'.params = s.params ∧
    (s.phase ≠ .idle → s'.phase ≠ .idle →
      s'.mode = s.mode ∧ s'.lVarb = s.lVarb ∧ s'.lStereo = s.lStereo ∧ s'.lAb = s.lAb ∧ s'.lPty = s.lPty)

/-- No event is ever erased from the trace (R207: "a model records every `Reject` and `Abort` in the trace, where none is ever
erased"). -/
def Obligations.TraceOnlyGrows : Prop :=
  ∀ s s' : State, step s = .next s' → ∃ es, s'.trace = s.trace ++ es ∧ es.length ≤ 2

/-- R57: exactly three kinds of bus transaction exist; and each comes from its own step, at most one a step (R60). -/
def Obligations.BusTransactionsAreThreeKinds : Prop :=
  ∀ s s' : State, step s = .next s' →
    ∃ es, s'.trace = s.trace ++ es ∧ (es.filter isBus).length ≤ 1 ∧
      ∀ e ∈ es, isBus e = true →
        (s.phase = .read ∧ ∃ rb ack, rb.length = 7 ∧ e = .busRead 0x2B#7 7 rb ack) ∨
        (s.phase = .burst ∧ ∃ bs ack, bs.length = 8 ∧ e = .busWrite 0x2B#7 0x10#8 bs ack) ∨
        (s.phase = .toggle ∧ ∃ b ack, e = .busWrite 0x2B#7 s.params.toggleReg.addr [b] ack)

/-- The block addresses only the chip registers `0x10`-`0x17` and `P_TOGGLE_REG` (R50, R53), and a burst sends one byte to each of the
eight (the burst stops at `0x17`, C2). What a register holds after a FAIL is left open (log 29). -/
def Obligations.ChipWritesConfined : Prop :=
  (∀ s s' : State, step s = .next s' →
    ∃ es, s'.trace = s.trace ++ es ∧
      ∀ e ∈ es, ∀ c ∈ e.chipCells,
        (0x10 ≤ c.1.toNat ∧ c.1.toNat ≤ 0x17) ∨ c.1 = s.params.toggleReg.addr) ∧
  (∀ (b : Vector Byte 8) (ack : Ack),
    (Event.busWrite 0x2B#7 0x10#8 b.toList ack).chipCells =
      [(0x10#8, b[0]), (0x11#8, b[1]), (0x12#8, b[2]), (0x13#8, b[3]),
       (0x14#8, b[4]), (0x15#8, b[5]), (0x16#8, b[6]), (0x17#8, b[7])])

/-! ### Faults (60_exceptions.md R216) -/

/-- A BURST step that reads a TEXT byte never written is the fault `UnwrittenText` (R216 (a)). That the fault comes with no
acknowledgement at all, and on FAIL as on OK, is the model's deduction from the order of R104 (log 6, DEDUCED). -/
def Obligations.UnwrittenTextFaults : Prop :=
  ∀ (s : State) (k a : Nat) (ack : Ack) (rest : List Input), s.phase = .burst → s.seg = BitVec.ofNat 4 k →
    s.text.read a = none → s.inputs = [] ∨ s.inputs = .writeAck s.epoch ack :: rest →
    (s.mode = .ps → k < 4 → 2 * k ≤ a → a < 2 * k + 2 → step s = .fault .unwrittenText) ∧
    (s.mode = .rt → k < 16 → 4 * k ≤ a → a < 4 * k + 4 → step s = .fault .unwrittenText)

/-- An access to the chip by another agent is the fault `ForeignDeviceAccess` while BUSY (R216 (b), R237) and of no effect on the
block otherwise (log 14). -/
def Obligations.ForeignAccessFaultsWhileBusy : Prop :=
  ∀ (s : State) (rest : List Input), s.inputs = .foreignAccess :: rest →
    (s.busy = true → step s = .fault .foreignDeviceAccess) ∧
    (s.busy = false → step s = .next { s with inputs := rest })

/-- No step is refused, and a step faults only where R216 says so: every command runs. -/
def Obligations.StepStopsOnlyByRule : Prop :=
  ∀ s : State, (∀ r, step s ≠ .refused r) ∧
    (∀ f, step s = .fault f →
      (f = .unwrittenText ∧ s.phase = .burst ∧ s.burstBytes = none) ∨
      (f = .foreignDeviceAccess ∧ s.busy = true ∧ ∃ rest, s.inputs = .foreignAccess :: rest))

/-! ### Whole sends (R110) -/

/-- One segment: from READ, with the four answers at hand, four steps give exactly the trace of R110 and reach the end of the WAIT
step, whatever the read-back bytes are. -/
def Obligations.SegmentRuns : Prop :=
  ∀ (s : State) (rb : Vector Byte 7) (b : Vector Byte 8) (rest : List Input), s.phase = .read →
    s.inputs = segmentInputs s.epoch rb ++ rest → s.burstBytes = some b → s.seg ≠ lastSeg s.mode →
    runSteps 4 s =
      .next { s with inputs := rest, rb3 := rb[3], burst := b, seg := s.seg + 1#4, phase := .read,
                     trace := s.trace ++ segmentTrace s.params rb b.toList }

/-- A PS cycle (R110, R130): accepted in IDLE with `TEXT[0..7]` written and no bus failure, SENDPS runs 4 segments with exactly the
trace of R110, whatever is read back, then `Done`; `CNT_PS` goes up by 1 and nothing else of the host's view changes. -/
def Obligations.PsCycleRuns : Prop :=
  ∀ (s : State) (pty : Byte) (vb st : Bool) (rb : Nat → Vector Byte 7) (rest : List Input), s.phase = .idle →
    (∀ a, a < 8 → s.text.read a ≠ none) →
    s.inputs = .command (encode (.sendps pty vb st)) ::
      (List.range 4).flatMap (fun k => segmentInputs s.epoch (rb k)) ++ rest →
    ∃ (t : State) (burst : Nat → Vector Byte 8),
      (∀ k, k < 4 → psBurst s.params s.text vb st (BitVec.ofNat 5 pty.toNat) (BitVec.ofNat 4 k) = some (burst k)) ∧
      runSteps 17 s = .next t ∧
      t.trace = s.trace ++ [.accept (encode (.sendps pty vb st))] ++
        (List.range 4).flatMap (fun k => segmentTrace s.params (rb k) (burst k).toList) ++ [.done .ps] ∧
      t.cntPs = (s.cntPs + 1) % 2 ^ s.params.cntW ∧ t.cntRt = s.cntRt ∧ t.result = s.result ∧ t.text = s.text ∧
      t.phase = .idle ∧ t.statusPort = 0#8 ∧ t.params = s.params ∧ t.inputs = rest ∧ t.epoch = s.epoch

/-- An RT cycle (R110, R150): the same for SENDRT, 16 segments and `TEXT[0..63]`. -/
def Obligations.RtCycleRuns : Prop :=
  ∀ (s : State) (pty : Byte) (ab : Bool) (rb : Nat → Vector Byte 7) (rest : List Input), s.phase = .idle →
    (∀ a, a < 64 → s.text.read a ≠ none) →
    s.inputs = .command (encode (.sendrt pty ab)) ::
      (List.range 16).flatMap (fun k => segmentInputs s.epoch (rb k)) ++ rest →
    ∃ (t : State) (burst : Nat → Vector Byte 8),
      (∀ k, k < 16 → rtBurst s.params s.text ab (BitVec.ofNat 5 pty.toNat) (BitVec.ofNat 4 k) = some (burst k)) ∧
      runSteps 65 s = .next t ∧
      t.trace = s.trace ++ [.accept (encode (.sendrt pty ab))] ++
        (List.range 16).flatMap (fun k => segmentTrace s.params (rb k) (burst k).toList) ++ [.done .rt] ∧
      t.cntRt = (s.cntRt + 1) % 2 ^ s.params.cntW ∧ t.cntPs = s.cntPs ∧ t.result = s.result ∧ t.text = s.text ∧
      t.phase = .idle ∧ t.statusPort = 0#8 ∧ t.params = s.params ∧ t.inputs = rest ∧ t.epoch = s.epoch
end

