-- ==== Sys2Proof/Laws/Decode.lean ====
section
/-! SUPPORT. What the word of R85 holds in each field of R70, and that a word with its reserved bits 0 is made of its fields. -/

namespace Sys2Proof

section
variable (idx : BitVec 6) (arg8 : Byte) (f1 f0 : Bool) (op : BitVec 4)

theorem opField_packWord : opField (packWord idx arg8 f1 f0 op) = op := by
  ext i hi
  have h : i = 0 ∨ i = 1 ∨ i = 2 ∨ i = 3 := by omega
  rcases h with rfl | rfl | rfl | rfl <;> simp [opField, packWord]

theorem f0Field_packWord : f0Field (packWord idx arg8 f1 f0 op) = f0 := by
  simp [f0Field, packWord]

theorem f1Field_packWord : f1Field (packWord idx arg8 f1 f0 op) = f1 := by
  simp [f1Field, packWord]

theorem rsv0Field_packWord : rsv0Field (packWord idx arg8 f1 f0 op) = 0#2 := by
  ext i hi
  simp [rsv0Field, packWord]
  grind

theorem arg8Field_packWord : arg8Field (packWord idx arg8 f1 f0 op) = arg8 := by
  ext i hi
  simp [arg8Field, packWord]
  grind

theorem idxField_packWord : idxField (packWord idx arg8 f1 f0 op) = idx := by
  ext i hi
  simp [idxField, packWord]
  grind

theorem rsv1Field_packWord : rsv1Field (packWord idx arg8 f1 f0 op) = 0#10 := by
  ext i hi
  simp [rsv1Field, packWord]
  grind

end

/-! ### The fields as numbers (R70) -/

theorem extract_toNat (w : Word) (k n : Nat) : (w.extractLsb' k n).toNat = w.toNat / 2 ^ k % 2 ^ n := by
  simp [Nat.shiftRight_eq_div_pow]

theorem bit_toNat (w : Word) (k : Nat) : (w.getLsbD k).toNat = w.toNat / 2 ^ k % 2 := by
  rw [BitVec.getLsbD, Nat.testBit_eq_decide_div_mod_eq]
  rcases Nat.mod_two_eq_zero_or_one (w.toNat / 2 ^ k) with h | h <;> simp [h]

theorem opField_toNat (w : Word) : (opField w).toNat = w.toNat % 16 := by
  rw [opField, extract_toNat w 0 4]
  simp

theorem f0Field_toNat (w : Word) : (f0Field w).toNat = w.toNat / 16 % 2 := bit_toNat w 4

theorem f1Field_toNat (w : Word) : (f1Field w).toNat = w.toNat / 32 % 2 := bit_toNat w 5

theorem rsv0Field_toNat (w : Word) : (rsv0Field w).toNat = w.toNat / 64 % 4 := extract_toNat w 6 2

theorem arg8Field_toNat (w : Word) : (arg8Field w).toNat = w.toNat / 256 % 256 := extract_toNat w 8 8

theorem idxField_toNat (w : Word) : (idxField w).toNat = w.toNat / 65536 % 64 := extract_toNat w 16 6

theorem rsv1Field_toNat (w : Word) : (rsv1Field w).toNat = w.toNat / 4194304 % 1024 := extract_toNat w 22 10

/-- A word whose reserved fields are 0 is the word of its other fields. -/
theorem packWord_fields (w : Word) (h0 : rsv0Field w = 0#2) (h1 : rsv1Field w = 0#10) :
    packWord (idxField w) (arg8Field w) (f1Field w) (f0Field w) (opField w) = w := by
  have low (i) (hi : i < 2) : w.getLsbD (6 + i) = false := by
    simpa [rsv0Field, hi] using congrArg (BitVec.getLsbD · i) h0
  have high (i) (hi : i < 10) : w.getLsbD (22 + i) = false := by
    simpa [rsv1Field, hi] using congrArg (BitVec.getLsbD · i) h1
  apply BitVec.eq_of_getLsbD_eq
  intro i hi
  simp only [opField, idxField, arg8Field, f0Field, f1Field, packWord]
  have a0 := low 0 (by omega)
  have a1 := low 1 (by omega)
  rcases Nat.lt_or_ge i 22 with h | h
  · interval_cases i <;> simp_all
  · have hw := high (i - 22) (by omega)
    rw [show 22 + (i - 22) = i by omega] at hw
    rw [hw]
    simp
    grind

end Sys2Proof
end

