-- ==== Sys2Proof/Laws/Flags.lean ====
section
/-! SUPPORT. STATUS: what its fields read as after a write (R29). -/

namespace Sys2Proof.Machine

@[simp] theorem statusBusy_packStatus (b : Bool) (e : BitVec 3) : statusBusy (packStatus b e) = b := by
  revert b e; decide

@[simp] theorem statusErr_packStatus (b : Bool) (e : BitVec 3) : statusErr (packStatus b e) = e := by
  revert b e; decide

theorem packStatus_reserved (b : Bool) (e : BitVec 3) : (packStatus b e).extractLsb' 4 4 = 0#4 := by
  revert b e; decide

/-- A STATUS value with its reserved bits 0 is made of its two fields. -/
theorem packStatus_of_reserved (st : Byte) (h : st.extractLsb' 4 4 = 0#4) :
    packStatus (statusBusy st) (statusErr st) = st := by
  revert st; decide

/-- Every code the block produces is at most 3 (R39 (c)). -/
theorem ErrCode.bits_le (c : ErrCode) : c.bits ≤ 3#3 := by
  cases c <;> decide

end Sys2Proof.Machine
end

