-- ==== Sys2Proof/Laws/Memory.lean ====
section
/-! SUPPORT. TEXT: read after write, and that a write keeps the canonical form. -/

namespace Sys2Proof.Machine

@[simp] theorem Memory.read_nil (a : Nat) : Memory.read [] a = none := rfl

/-- A read gives the byte just written, and every other byte is as before. -/
theorem Memory.read_write (m : Memory) (a : Nat) (b : Byte) (x : Nat) :
    (m.write a b).read x = if x = a then some b else m.read x := by
  induction m with
  | nil =>
    by_cases h : x = a
    · simp [Memory.write, Memory.read, h]
    · simp [Memory.write, Memory.read, h, Ne.symm h]
  | cons c m ih =>
    rcases Nat.lt_trichotomy a c.1 with h | h | h
    · by_cases hx : x = a
      · simp [Memory.write, Memory.read, h, hx]
      · simp [Memory.write, Memory.read, h, hx, Ne.symm hx]
    · by_cases hx : x = a
      · simp [Memory.write, Memory.read, h, hx]
      · simp [Memory.write, Memory.read, ← h, hx, Ne.symm hx]
    · have h1 : ¬ a < c.1 := by omega
      have h2 : a ≠ c.1 := by omega
      simp only [Memory.write, h1, h2, if_false, Memory.read, ih]
      by_cases hc : c.1 = x
      · have hx : x ≠ a := by omega
        simp [hc, hx]
      · simp [hc]

/-- Lowering the first address allowed. -/
theorem Memory.sortedFrom_mono {lo lo' hi : Nat} (m : Memory) (h : lo' ≤ lo) (hm : Memory.sortedFrom lo hi m = true) :
    Memory.sortedFrom lo' hi m = true := by
  cases m with
  | nil => rfl
  | cons c m =>
    simp only [Memory.sortedFrom, Bool.and_eq_true, decide_eq_true_eq] at hm ⊢
    exact ⟨⟨Nat.le_trans h hm.1.1, hm.1.2⟩, hm.2⟩

/-- A write keeps the form. -/
theorem Memory.sortedFrom_write {lo hi : Nat} (m : Memory) (a : Nat) (b : Byte) (hlo : lo ≤ a) (hhi : a < hi)
    (hm : Memory.sortedFrom lo hi m = true) : Memory.sortedFrom lo hi (m.write a b) = true := by
  induction m generalizing lo with
  | nil => simp [Memory.write, Memory.sortedFrom, hlo, hhi]
  | cons c m ih =>
    simp only [Memory.sortedFrom, Bool.and_eq_true, decide_eq_true_eq] at hm
    obtain ⟨⟨h1, h2⟩, h3⟩ := hm
    rcases Nat.lt_trichotomy a c.1 with h | h | h
    · simp only [Memory.write, h, if_true, Memory.sortedFrom, Bool.and_eq_true, decide_eq_true_eq]
      exact ⟨⟨hlo, hhi⟩, ⟨by omega, h2⟩, h3⟩
    · subst h
      simp [Memory.write, Memory.sortedFrom, hlo, hhi, h3]
    · have n1 : ¬ a < c.1 := by omega
      have n2 : a ≠ c.1 := by omega
      simp only [Memory.write, n1, n2, if_false, Memory.sortedFrom, Bool.and_eq_true, decide_eq_true_eq]
      exact ⟨⟨h1, h2⟩, ih (by omega) h3⟩

/-- LOAD_TEXT's write keeps TEXT's canonical form (R174: every index is in range). -/
theorem Memory.wf_write (m : Memory) (idx : BitVec 6) (b : Byte) (hm : m.wf = true) :
    (m.write idx.toNat b).wf = true :=
  Memory.sortedFrom_write m idx.toNat b (Nat.zero_le _) idx.isLt hm

theorem State.reset_text_wf : State.reset.text.wf = true := rfl

end Sys2Proof.Machine
end

