-- ==== Sys2Proof/Laws/PerInstr.lean ====
section
/-! SUPPORT. Facts about every command as written text, one lemma per constructor. -/

namespace Sys2Proof.Laws.WellFormed

/-- Every command's written form passes the assembler's checks (R85). -/
def Statement (i : Instr) : Prop := i.WellFormed

theorem sendps (pty : Byte) (vb st : Bool) : Statement (.sendps pty vb st) := by
  have := pty.isLt
  cases vb <;> cases st <;>
    simp [Statement, Instr.WellFormed, Instr.toStmt, Stmt.check, Literal.below] <;> omega

theorem sendrt (pty : Byte) (ab : Bool) : Statement (.sendrt pty ab) := by
  have := pty.isLt
  cases ab <;> simp [Statement, Instr.WellFormed, Instr.toStmt, Stmt.check, Literal.below] <;> omega

theorem getps (rst : Bool) : Statement (.getps rst) := by
  cases rst <;> rfl

theorem getrt (rst : Bool) : Statement (.getrt rst) := by
  cases rst <;> rfl

theorem ldtxt (idx : BitVec 6) (byte : Byte) : Statement (.ldtxt idx byte) := by
  have := idx.isLt
  have := byte.isLt
  simp [Statement, Instr.WellFormed, Instr.toStmt, Stmt.check, Literal.below]
  omega

end Sys2Proof.Laws.WellFormed

namespace Sys2Proof.Laws.Opcode

/-- The opcode of R71 that a command's word carries. -/
def opcodeOf : Instr → BitVec 4
  | .sendps _ _ _ => 0x1#4
  | .sendrt _ _ => 0x2#4
  | .getps _ => 0x3#4
  | .getrt _ => 0x4#4
  | .ldtxt _ _ => 0x5#4

/-- A command's word has its opcode, and its reserved fields are 0 (R70, R71). -/
def Statement (i : Instr) : Prop :=
  opField (encode i) = opcodeOf i ∧ rsv0Field (encode i) = 0#2 ∧ rsv1Field (encode i) = 0#10

theorem sendps (pty : Byte) (vb st : Bool) : Statement (.sendps pty vb st) :=
  ⟨opField_packWord .., rsv0Field_packWord .., rsv1Field_packWord ..⟩

theorem sendrt (pty : Byte) (ab : Bool) : Statement (.sendrt pty ab) :=
  ⟨opField_packWord .., rsv0Field_packWord .., rsv1Field_packWord ..⟩

theorem getps (rst : Bool) : Statement (.getps rst) :=
  ⟨opField_packWord .., rsv0Field_packWord .., rsv1Field_packWord ..⟩

theorem getrt (rst : Bool) : Statement (.getrt rst) :=
  ⟨opField_packWord .., rsv0Field_packWord .., rsv1Field_packWord ..⟩

theorem ldtxt (idx : BitVec 6) (byte : Byte) : Statement (.ldtxt idx byte) :=
  ⟨opField_packWord .., rsv0Field_packWord .., rsv1Field_packWord ..⟩

end Sys2Proof.Laws.Opcode
end

