-- ==== Sys2Proof/Laws/State.lean ====
section
/-! SUPPORT. One lemma per field per update of State, true by definition, so that no later proof unfolds a record update; and each
shared operation as the record it gives. -/

namespace Sys2Proof.Machine
variable (s : State)

/-! ### `State.emit` -/

@[simp] theorem State.emit_params (e : Event) : (s.emit e).params = s.params := rfl
@[simp] theorem State.emit_cntPs (e : Event) : (s.emit e).cntPs = s.cntPs := rfl
@[simp] theorem State.emit_cntRt (e : Event) : (s.emit e).cntRt = s.cntRt := rfl
@[simp] theorem State.emit_result (e : Event) : (s.emit e).result = s.result := rfl
@[simp] theorem State.emit_text (e : Event) : (s.emit e).text = s.text := rfl
@[simp] theorem State.emit_status (e : Event) : (s.emit e).status = s.status := rfl
@[simp] theorem State.emit_phase (e : Event) : (s.emit e).phase = s.phase := rfl
@[simp] theorem State.emit_seg (e : Event) : (s.emit e).seg = s.seg := rfl
@[simp] theorem State.emit_mode (e : Event) : (s.emit e).mode = s.mode := rfl
@[simp] theorem State.emit_lVarb (e : Event) : (s.emit e).lVarb = s.lVarb := rfl
@[simp] theorem State.emit_lStereo (e : Event) : (s.emit e).lStereo = s.lStereo := rfl
@[simp] theorem State.emit_lAb (e : Event) : (s.emit e).lAb = s.lAb := rfl
@[simp] theorem State.emit_lPty (e : Event) : (s.emit e).lPty = s.lPty := rfl
@[simp] theorem State.emit_rb3 (e : Event) : (s.emit e).rb3 = s.rb3 := rfl
@[simp] theorem State.emit_burst (e : Event) : (s.emit e).burst = s.burst := rfl
@[simp] theorem State.emit_inputs (e : Event) : (s.emit e).inputs = s.inputs := rfl
@[simp] theorem State.emit_epoch (e : Event) : (s.emit e).epoch = s.epoch := rfl
@[simp] theorem State.emit_trace (e : Event) : (s.emit e).trace = s.trace ++ [e] := rfl

/-! ### `State.setErr` -/

@[simp] theorem State.setErr_params (code : ErrCode) : (s.setErr code).params = s.params := rfl
@[simp] theorem State.setErr_cntPs (code : ErrCode) : (s.setErr code).cntPs = s.cntPs := rfl
@[simp] theorem State.setErr_cntRt (code : ErrCode) : (s.setErr code).cntRt = s.cntRt := rfl
@[simp] theorem State.setErr_result (code : ErrCode) : (s.setErr code).result = s.result := rfl
@[simp] theorem State.setErr_text (code : ErrCode) : (s.setErr code).text = s.text := rfl
@[simp] theorem State.setErr_status (code : ErrCode) : (s.setErr code).status = packStatus s.busy code.bits := rfl
@[simp] theorem State.setErr_phase (code : ErrCode) : (s.setErr code).phase = s.phase := rfl
@[simp] theorem State.setErr_seg (code : ErrCode) : (s.setErr code).seg = s.seg := rfl
@[simp] theorem State.setErr_mode (code : ErrCode) : (s.setErr code).mode = s.mode := rfl
@[simp] theorem State.setErr_lVarb (code : ErrCode) : (s.setErr code).lVarb = s.lVarb := rfl
@[simp] theorem State.setErr_lStereo (code : ErrCode) : (s.setErr code).lStereo = s.lStereo := rfl
@[simp] theorem State.setErr_lAb (code : ErrCode) : (s.setErr code).lAb = s.lAb := rfl
@[simp] theorem State.setErr_lPty (code : ErrCode) : (s.setErr code).lPty = s.lPty := rfl
@[simp] theorem State.setErr_rb3 (code : ErrCode) : (s.setErr code).rb3 = s.rb3 := rfl
@[simp] theorem State.setErr_burst (code : ErrCode) : (s.setErr code).burst = s.burst := rfl
@[simp] theorem State.setErr_inputs (code : ErrCode) : (s.setErr code).inputs = s.inputs := rfl
@[simp] theorem State.setErr_epoch (code : ErrCode) : (s.setErr code).epoch = s.epoch := rfl
@[simp] theorem State.setErr_trace (code : ErrCode) : (s.setErr code).trace = s.trace := rfl

/-! ### `State.setBusy` -/

@[simp] theorem State.setBusy_params (b : Bool) : (s.setBusy b).params = s.params := rfl
@[simp] theorem State.setBusy_cntPs (b : Bool) : (s.setBusy b).cntPs = s.cntPs := rfl
@[simp] theorem State.setBusy_cntRt (b : Bool) : (s.setBusy b).cntRt = s.cntRt := rfl
@[simp] theorem State.setBusy_result (b : Bool) : (s.setBusy b).result = s.result := rfl
@[simp] theorem State.setBusy_text (b : Bool) : (s.setBusy b).text = s.text := rfl
@[simp] theorem State.setBusy_status (b : Bool) : (s.setBusy b).status = packStatus b s.err := rfl
@[simp] theorem State.setBusy_phase (b : Bool) : (s.setBusy b).phase = s.phase := rfl
@[simp] theorem State.setBusy_seg (b : Bool) : (s.setBusy b).seg = s.seg := rfl
@[simp] theorem State.setBusy_mode (b : Bool) : (s.setBusy b).mode = s.mode := rfl
@[simp] theorem State.setBusy_lVarb (b : Bool) : (s.setBusy b).lVarb = s.lVarb := rfl
@[simp] theorem State.setBusy_lStereo (b : Bool) : (s.setBusy b).lStereo = s.lStereo := rfl
@[simp] theorem State.setBusy_lAb (b : Bool) : (s.setBusy b).lAb = s.lAb := rfl
@[simp] theorem State.setBusy_lPty (b : Bool) : (s.setBusy b).lPty = s.lPty := rfl
@[simp] theorem State.setBusy_rb3 (b : Bool) : (s.setBusy b).rb3 = s.rb3 := rfl
@[simp] theorem State.setBusy_burst (b : Bool) : (s.setBusy b).burst = s.burst := rfl
@[simp] theorem State.setBusy_inputs (b : Bool) : (s.setBusy b).inputs = s.inputs := rfl
@[simp] theorem State.setBusy_epoch (b : Bool) : (s.setBusy b).epoch = s.epoch := rfl
@[simp] theorem State.setBusy_trace (b : Bool) : (s.setBusy b).trace = s.trace := rfl

/-! ### The shared operations as records -/

theorem State.reject_eq (w : Word) (c : ErrCode) :
    s.reject w c = { s with status := packStatus s.busy c.bits, trace := s.trace ++ [.reject w c] } := rfl

theorem State.accept_eq (w : Word) :
    s.accept w = { s with status := packStatus s.busy 0#3, trace := s.trace ++ [.accept w] } := rfl

theorem startSend_eq (m : Mode) (vb st ab : Bool) (ptyin : Byte) :
    startSend m vb st ab ptyin s =
      { s with mode := m, lVarb := vb, lStereo := st, lAb := ab, lPty := ptyOf ptyin, seg := 0#4, phase := .read,
               status := packStatus true s.err } := rfl

theorem State.complete_ps (h : s.mode = .ps) :
    s.complete = { s with cntPs := (s.cntPs + 1) % 2 ^ s.params.cntW, phase := .idle, status := packStatus false s.err,
                          trace := s.trace ++ [.done .ps] } := by
  simp [State.complete, h, State.setBusy, State.emit, State.err]

theorem State.complete_rt (h : s.mode = .rt) :
    s.complete = { s with cntRt := (s.cntRt + 1) % 2 ^ s.params.cntW, phase := .idle, status := packStatus false s.err,
                          trace := s.trace ++ [.done .rt] } := by
  simp [State.complete, h, State.setBusy, State.emit, State.err]

theorem State.abort_eq :
    s.abort = { s with phase := .idle, status := 0x06#8, trace := s.trace ++ [.abort .busAbort] } := by
  have h : packStatus (statusBusy (packStatus false s.err)) ErrCode.busAbort.bits = 0x06#8 := by
    generalize s.err = e; revert e; decide
  simp [State.abort, State.raiseErr, State.setBusy, State.setErr, State.emit, State.busy, ← h, State.err]

/-! ### The parameters the source fixes (R8) -/

@[simp] theorem source_devAddr (p : Params) : p.source.devAddr = 0x2B#7 := by rw [p.source_ok]; rfl
@[simp] theorem source_rdsBase (p : Params) : p.source.rdsBase = 0x10#8 := by rw [p.source_ok]; rfl
@[simp] theorem source_rdsLen (p : Params) : p.source.rdsLen = 8 := by rw [p.source_ok]; rfl
@[simp] theorem source_statusReadLen (p : Params) : p.source.statusReadLen = 7 := by rw [p.source_ok]; rfl
@[simp] theorem source_statusIndex (p : Params) : p.source.statusIndex = 3 := by rw [p.source_ok]; rfl
@[simp] theorem source_toggleBit (p : Params) : p.source.toggleBit = 2 := by rw [p.source_ok]; rfl
@[simp] theorem source_psSegments (p : Params) : p.source.psSegments = 4 := by rw [p.source_ok]; rfl
@[simp] theorem source_rtSegments (p : Params) : p.source.rtSegments = 16 := by rw [p.source_ok]; rfl
@[simp] theorem source_textBytes (p : Params) : p.source.textBytes = 64 := by rw [p.source_ok]; rfl

@[simp] theorem statusByte_eq (p : Params) (rb : Vector Byte 7) : statusByte p rb = rb[3] := by simp [statusByte]

@[simp] theorem toggled_eq (p : Params) (rb3 : Byte) : toggled p rb3 = rb3 ^^^ 0x04#8 := by simp [toggled]

@[simp] theorem lastSegOf_ps (p : Params) : lastSegOf p .ps = 3#4 := by simp [lastSegOf]

@[simp] theorem lastSegOf_rt (p : Params) : lastSegOf p .rt = 15#4 := by simp [lastSegOf]

/-- Every index of a LOAD_TEXT names a TEXT byte (R77). -/
theorem State.storeText_eq (idx : BitVec 6) (b : Byte) :
    s.storeText idx.toNat b = { s with text := s.text.write idx.toNat b } := by
  have := idx.isLt
  simp [State.storeText]
  omega

theorem State.busWrite_eq (sub : Byte) (bytes : List Byte) (ack : Ack) :
    s.busWrite sub bytes ack = { s with trace := s.trace ++ [.busWrite 0x2B#7 sub bytes ack] } := by
  simp [State.busWrite, State.emit]

theorem State.busRead_eq (bytes : Vector Byte 7) (ack : Ack) :
    s.busRead bytes ack = { s with trace := s.trace ++ [.busRead 0x2B#7 7 bytes.toList ack] } := by
  simp [State.busRead, State.emit]

theorem State.writeBurst_eq (bytes : Vector Byte 8) (ack : Ack) :
    s.writeBurst bytes ack =
      { s with burst := bytes, trace := s.trace ++ [.busWrite 0x2B#7 0x10#8 bytes.toList ack] } := by
  have h : bytes.toList.take 8 = bytes.toList := List.take_of_length_le (by simp)
  simp [State.writeBurst, State.busWrite_eq, h]

end Sys2Proof.Machine
end

