-- ==== Sys2Proof/Laws/Step.lean ====
section
/-! SUPPORT. Once and for all: what each command does, what each sequencer step does, and every case of a step that answers a next
state. Later proofs cite these and unfold nothing. -/

namespace Sys2Proof.Machine
open Sys2Proof.Safety

/-! ### Commands -/

/-- Presented while a send runs, every command is rejected (R202). -/
theorem exec_busy (i : Instr) (s : State) (h : s.phase ≠ .idle) :
    exec i s = .next (s.reject (encode i) .busyReject) := by
  cases i <;>
    simp [exec, execSendps, execSendrt, execGetps, execGetrt, execLdtxt, acceptCommand, h]

/-- What a command does when it is accepted. -/
def accepted (i : Instr) (s : State) : State :=
  let t := s.accept (encode i)
  match i with
  | .sendps pty vb st => startSend .ps vb st false pty t
  | .sendrt pty ab => startSend .rt false false ab pty t
  | .getps rst => { t with result := s.cntPs, cntPs := if rst then 0 else s.cntPs }
  | .getrt rst => { t with result := s.cntRt, cntRt := if rst then 0 else s.cntRt }
  | .ldtxt idx byte => { t with text := s.text.write idx.toNat byte }

/-- Presented in IDLE, every command is accepted (R100). -/
theorem exec_idle (i : Instr) (s : State) (h : s.phase = .idle) : exec i s = .next (accepted i s) := by
  cases i <;>
    simp [exec, execSendps, execSendrt, execGetps, execGetrt, execLdtxt, acceptCommand, h, accepted, State.accept, State.storeText_eq]

/-! ### Sequencer steps as records -/

theorem readStep_ok (rb : Vector Byte 7) (s : State) :
    readStep .ok rb s =
      { s with rb3 := rb[3], phase := .burst, trace := s.trace ++ [.busRead 0x2B#7 7 rb.toList .ok] } := by
  simp [readStep, State.busRead_eq]

theorem readStep_fail (rb : Vector Byte 7) (s : State) :
    readStep .fail rb s =
      { s with phase := .idle, status := 0x06#8,
               trace := s.trace ++ [.busRead 0x2B#7 7 rb.toList .fail, .abort .busAbort] } := by
  simp [readStep, State.abort_eq, State.busRead_eq]

theorem burstStep_none (ack : Ack) (s : State) (h : s.burstBytes = none) :
    burstStep ack s = .fault .unwrittenText := by
  simp [burstStep, h]

theorem burstStep_ok (s : State) (b : Vector Byte 8) (h : s.burstBytes = some b) :
    burstStep .ok s =
      .next { s with burst := b, phase := .toggle,
                     trace := s.trace ++ [.busWrite 0x2B#7 0x10#8 b.toList .ok] } := by
  simp [burstStep, h, State.writeBurst_eq]

theorem burstStep_fail (s : State) (b : Vector Byte 8) (h : s.burstBytes = some b) :
    burstStep .fail s =
      .next { s with burst := b, phase := .idle, status := 0x06#8,
                     trace := s.trace ++ [.busWrite 0x2B#7 0x10#8 b.toList .fail, .abort .busAbort] } := by
  simp [burstStep, h, State.abort_eq, State.writeBurst_eq]

theorem toggleStep_ok (s : State) :
    toggleStep .ok s =
      { s with phase := .wait,
               trace := s.trace ++ [.busWrite 0x2B#7 s.params.toggleReg.addr [s.rb3 ^^^ 0x04#8] .ok,
                                    .timerStart s.params.paceMs] } := by
  simp [toggleStep, State.busWrite_eq, State.emit]

theorem toggleStep_fail (s : State) :
    toggleStep .fail s =
      { s with phase := .idle, status := 0x06#8,
               trace := s.trace ++ [.busWrite 0x2B#7 s.params.toggleReg.addr [s.rb3 ^^^ 0x04#8] .fail,
                                    .abort .busAbort] } := by
  simp [toggleStep, State.busWrite_eq, State.abort_eq]

@[simp] theorem lastSegOf_eq (p : Params) (m : Mode) : lastSegOf p m = lastSeg m := by cases m <;> simp [lastSeg]

theorem waitStep_next (s : State) (h : s.seg ≠ lastSeg s.mode) :
    waitStep s = { s with seg := s.seg + 1#4, phase := .read, trace := s.trace ++ [.timerElapsed] } := by
  simp [waitStep, h, State.emit]

theorem waitStep_last_ps (s : State) (hm : s.mode = .ps) (h : s.seg = 3#4) :
    waitStep s =
      { s with cntPs := (s.cntPs + 1) % 2 ^ s.params.cntW, phase := .idle, status := packStatus false s.err,
               trace := s.trace ++ [.timerElapsed, .done .ps] } := by
  simp [waitStep, h, hm, lastSeg, State.complete_ps, State.emit, State.err]

theorem waitStep_last_rt (s : State) (hm : s.mode = .rt) (h : s.seg = 15#4) :
    waitStep s =
      { s with cntRt := (s.cntRt + 1) % 2 ^ s.params.cntW, phase := .idle, status := packStatus false s.err,
               trace := s.trace ++ [.timerElapsed, .done .rt] } := by
  simp [waitStep, h, hm, lastSeg, State.complete_rt, State.emit, State.err]

/-- When a BURST step answers a next state: the bytes were all written, and they went to the bus. -/
theorem burstStep_next {ack : Ack} {s s' : State} (h : burstStep ack s = .next s') :
    ∃ b, s.burstBytes = some b ∧
      ((ack = .ok ∧
          s' = { s with burst := b, phase := .toggle, trace := s.trace ++ [.busWrite 0x2B#7 0x10#8 b.toList .ok] }) ∨
        (ack = .fail ∧
          s' = { s with burst := b, phase := .idle, status := 0x06#8,
                        trace := s.trace ++ [.busWrite 0x2B#7 0x10#8 b.toList .fail, .abort .busAbort] })) := by
  cases hb : s.burstBytes with
  | none => rw [burstStep_none _ _ hb] at h; cases h
  | some b =>
    cases ack with
    | ok => rw [burstStep_ok _ b hb] at h; cases h; exact ⟨b, rfl, .inl ⟨rfl, rfl⟩⟩
    | fail => rw [burstStep_fail _ b hb] at h; cases h; exact ⟨b, rfl, .inr ⟨rfl, rfl⟩⟩

/-- The three ends of a WAIT step. -/
theorem waitStep_cases (s : State) :
    (s.seg ≠ lastSeg s.mode ∧
      waitStep s = { s with seg := s.seg + 1#4, phase := .read, trace := s.trace ++ [.timerElapsed] }) ∨
    (s.mode = .ps ∧ s.seg = 3#4 ∧
      waitStep s = { s with cntPs := (s.cntPs + 1) % 2 ^ s.params.cntW, phase := .idle, status := packStatus false s.err,
                            trace := s.trace ++ [.timerElapsed, .done .ps] }) ∨
    (s.mode = .rt ∧ s.seg = 15#4 ∧
      waitStep s = { s with cntRt := (s.cntRt + 1) % 2 ^ s.params.cntW, phase := .idle, status := packStatus false s.err,
                            trace := s.trace ++ [.timerElapsed, .done .rt] }) := by
  by_cases h : s.seg = lastSeg s.mode
  · have hm : s.mode = .ps ∨ s.mode = .rt := by cases s.mode <;> simp
    rcases hm with hm | hm <;> rw [hm] at h
    · exact .inr (.inl ⟨hm, h, waitStep_last_ps _ hm h⟩)
    · exact .inr (.inr ⟨hm, h, waitStep_last_rt _ hm h⟩)
  · exact .inl ⟨h, waitStep_next _ h⟩

/-! ### One step -/

theorem step_nil (s : State) (h : s.inputs = []) : step s = noInput s := by
  simp [step, h]

theorem step_cons (s : State) (i : Input) (rest : List Input) (h : s.inputs = i :: rest) :
    step s = onInput i { s with inputs := rest } := by
  simp [step, h]

theorem step_read (s : State) (ack : Ack) (rb : Vector Byte 7) (rest : List Input) (hp : s.phase = .read)
    (h : s.inputs = .readReply s.epoch ack rb :: rest) :
    step s = .next (readStep ack rb { s with inputs := rest }) := by
  rw [step_cons s _ _ h]; simp only [onInput, readReplyStep, hp, and_self, if_true]

theorem step_burst (s : State) (ack : Ack) (rest : List Input) (hp : s.phase = .burst)
    (h : s.inputs = .writeAck s.epoch ack :: rest) : step s = burstStep ack { s with inputs := rest } := by
  rw [step_cons s _ _ h]; simp only [onInput, writeAckStep, hp, if_true]

theorem step_toggle (s : State) (ack : Ack) (rest : List Input) (hp : s.phase = .toggle)
    (h : s.inputs = .writeAck s.epoch ack :: rest) : step s = .next (toggleStep ack { s with inputs := rest }) := by
  rw [step_cons s _ _ h]; simp only [onInput, writeAckStep, hp, if_true]

theorem step_wait (s : State) (rest : List Input) (hp : s.phase = .wait)
    (h : s.inputs = .timerElapsed s.epoch :: rest) : step s = .next (waitStep { s with inputs := rest }) := by
  rw [step_cons s _ _ h]; simp only [onInput, timerStep, hp, and_self, if_true]

/-- Every way a step answers a next state. `t` is the state once the move has been taken from `inputs`. -/
inductive StepCase (s s' : State) : Prop where
  /-- No agent moves. -/
  | noMove (h : s.inputs = []) (he : s' = s)
  /-- An answer nobody waits for, or a foreign access while not BUSY. -/
  | ignored (i : Input) (rest : List Input) (h : s.inputs = i :: rest) (hc : ∀ w, i ≠ .command w) (hr : i ≠ .rst)
      (he : s' = { s with inputs := rest })
  | busyReject (w : Word) (rest : List Input) (h : s.inputs = .command w :: rest) (hp : s.phase ≠ .idle)
      (he : s' = ({ s with inputs := rest } : State).reject w .busyReject)
  | illegal (w : Word) (rest : List Input) (e : Illegal) (h : s.inputs = .command w :: rest) (hp : s.phase = .idle)
      (hd : decode w = .error e) (he : s' = ({ s with inputs := rest } : State).reject w .illegalCmd)
  | command (w : Word) (rest : List Input) (i : Instr) (h : s.inputs = .command w :: rest) (hp : s.phase = .idle)
      (hd : decode w = .ok i) (he : s' = accepted i { s with inputs := rest })
  | read (ack : Ack) (rb : Vector Byte 7) (rest : List Input) (h : s.inputs = .readReply s.epoch ack rb :: rest)
      (hp : s.phase = .read) (he : s' = readStep ack rb { s with inputs := rest })
  | burst (ack : Ack) (rest : List Input) (h : s.inputs = .writeAck s.epoch ack :: rest)
      (hp : s.phase = .burst) (he : burstStep ack { s with inputs := rest } = .next s')
  | toggle (ack : Ack) (rest : List Input) (h : s.inputs = .writeAck s.epoch ack :: rest)
      (hp : s.phase = .toggle) (he : s' = toggleStep ack { s with inputs := rest })
  | wait (rest : List Input) (h : s.inputs = .timerElapsed s.epoch :: rest)
      (hp : s.phase = .wait) (he : s' = waitStep { s with inputs := rest })
  | reset (rest : List Input) (h : s.inputs = .rst :: rest)
      (he : s' = ({ s with inputs := rest } : State).resetBlock)

/-- The inversion of a step: say once what it can do. -/
theorem step_cases {s s' : State} (hs : step s = .next s') : StepCase s s' := by
  match h : s.inputs with
  | [] =>
    rw [step_nil s h, noInput] at hs
    split at hs
    · cases hs
    · exact .noMove h (by injection hs with e; exact e.symm)
  | .command w :: rest =>
    rw [step_cons s _ _ h] at hs
    simp only [onInput, presentWord] at hs
    split at hs
    · rename_i hp
      split at hs
      · rename_i e hd
        exact .illegal w rest e h hp hd (by injection hs with e; exact e.symm)
      · rename_i i hd
        rw [exec_idle i { s with inputs := rest } hp] at hs
        exact .command w rest i h hp hd (by injection hs with e; exact e.symm)
    · rename_i hp
      exact .busyReject w rest h hp (by injection hs with e; exact e.symm)
  | .readReply ep ack rb :: rest =>
    rw [step_cons s _ _ h] at hs
    simp only [onInput, readReplyStep] at hs
    split at hs
    · rename_i hp
      exact .read ack rb rest (hp.1 ▸ h) hp.2 (by injection hs with e; exact e.symm)
    · exact .ignored _ rest h (by simp) (by simp) (by injection hs with e; exact e.symm)
  | .writeAck ep ack :: rest =>
    rw [step_cons s _ _ h] at hs
    simp only [onInput, writeAckStep] at hs
    split at hs
    · rename_i hp
      split at hs
      · rename_i hph
        exact .burst ack rest (hp ▸ h) hph hs
      · rename_i hph
        exact .toggle ack rest (hp ▸ h) hph (by injection hs with e; exact e.symm)
      all_goals exact .ignored _ rest h (by simp) (by simp) (by injection hs with e; exact e.symm)
    · exact .ignored _ rest h (by simp) (by simp) (by injection hs with e; exact e.symm)
  | .timerElapsed ep :: rest =>
    rw [step_cons s _ _ h] at hs
    simp only [onInput, timerStep] at hs
    split at hs
    · rename_i hp
      exact .wait rest (hp.1 ▸ h) hp.2 (by injection hs with e; exact e.symm)
    · exact .ignored _ rest h (by simp) (by simp) (by injection hs with e; exact e.symm)
  | .rst :: rest =>
    rw [step_cons s _ _ h] at hs
    exact .reset rest h (by injection hs with e; exact e.symm)
  | .foreignAccess :: rest =>
    rw [step_cons s _ _ h] at hs
    simp only [onInput, foreignStep] at hs
    split at hs
    · cases hs
    · exact .ignored _ rest h (by simp) (by simp) (by injection hs with e; exact e.symm)

end Sys2Proof.Machine
end

