-- ==== Sys2Proof/Laws/Run.lean ====
section
/-! SUPPORT. Several steps, one at a time. -/

namespace Sys2Proof.Safety
open Sys2Proof.Machine

@[simp] theorem runSteps_zero (s : State) : runSteps 0 s = .next s := rfl

/-- One step, then the rest. -/
theorem runSteps_succ {s t : State} (k : Nat) (h : step s = .next t) : runSteps (k + 1) s = runSteps k t := by
  have hc : Sys2Proof.core.step s = .next t := h
  simp only [runSteps, Host.Core.run, hc]
  rfl

/-- Some steps, then the rest. -/
theorem runSteps_add {s t : State} (m n : Nat) (h : runSteps m s = .next t) :
    runSteps (m + n) s = runSteps n t := by
  induction m generalizing s with
  | zero => rw [runSteps_zero] at h; cases h; rw [Nat.zero_add]
  | succ m ih =>
    rw [Nat.add_right_comm]
    cases hs : step s with
    | next u => rw [runSteps_succ _ hs] at h ⊢; exact ih h
    | fault f =>
      have hc : Sys2Proof.core.step s = .fault f := hs
      simp only [runSteps, Host.Core.run, hc] at h
      cases h
    | refused r =>
      have hc : Sys2Proof.core.step s = .refused r := hs
      simp only [runSteps, Host.Core.run, hc] at h
      cases h

end Sys2Proof.Safety
end

