-- ==== Sys2Proof/Tests/Slice0.lean ====
section
/-! SUPPORT. The model's own tests. Expected values are those of spec/95_test_vectors.md (the vector is named) or worked from the
rule named; the configuration is section 0's, with P_TOGGLE_REG = 0x5B ("any legal value"). The witnesses show that each
statement's hypotheses can be met. -/

namespace Sys2Proof.Tests
open Sys2Proof.Machine Sys2Proof.Safety

/-! ### The test configuration -/

/-- 95_test_vectors.md, section 0. -/
def tp : Params where
  source := Config.source
  source_ok := rfl
  pi := 0x1234#16
  af := #v[0xE2#8, 0x64#8, 0x8C#8, 0xCD#8, 0xCD#8, 0xCD#8, 0xCD#8, 0xCD#8]
  tp := false
  ta := false
  ms := false
  toggleReg := ⟨0x5B#8, by decide⟩
  paceMs := 100
  pace_ok := by decide
  cntW := 32

/-- The same with TP = TA = MS = 1 (section 2.2) and 8-bit counters (K4). -/
def tp1 : Params := { tp with tp := true, ta := true, ms := true, cntW := 8 }

/-- "TESTFM12" in TEXT[0..7]. -/
def psText : Memory :=
  [(0, 0x54#8), (1, 0x45#8), (2, 0x53#8), (3, 0x54#8), (4, 0x46#8), (5, 0x4D#8), (6, 0x31#8), (7, 0x32#8)]

/-- All 64 bytes written. -/
def rtText : Memory := (List.range 64).map fun a => (a, BitVec.ofNat 8 (0x20 + a))

/-- A state in a phase of a send, with what the other agents do next. -/
def st (phase : Phase) (mode : Mode) (seg : BitVec 4) (text : Memory) (inputs : List Input) : State :=
  { State.reset with
    params := tp, text := text, status := if phase = .idle then 0x00#8 else 0x01#8, phase := phase, mode := mode,
    seg := seg, lStereo := decide (mode = .ps), lAb := decide (mode = .rt),
    lPty := if mode = .ps then 2#5 else 10#5, rb3 := 0x20#8, cntPs := 5, cntRt := 9, inputs := inputs }

/-- The state a step answers, if it answers one. -/
def nextOf (o : Host.Outcome State Fault Refusal) : Option State :=
  match o with
  | .next s => some s
  | _ => none

/-- The fault a step ends in, if it does. -/
def faultOf (o : Host.Outcome State Fault Refusal) : Option Fault :=
  match o with
  | .fault f => some f
  | _ => none

/-- Seven read-back bytes with the given byte index 3. -/
def rb (r3 : Byte) : Vector Byte 7 := #v[0x00#8, 0x00#8, 0x00#8, r3, 0x00#8, 0x00#8, 0x00#8]

/-! ### WellFormed: one ill-formed statement for each check (R85, R86) -/

theorem smoke_sendps_pty : (Stmt.sendps (.num 256) (.num 0) (.num 0)).check = false := by decide
theorem smoke_sendps_vb : (Stmt.sendps (.num 2) (.num 2) (.num 0)).check = false := by decide
theorem smoke_sendps_st : (Stmt.sendps (.num 2) (.num 0) (.num 2)).check = false := by decide
theorem smoke_sendrt_pty : (Stmt.sendrt (.num 256) (.num 0)).check = false := by decide
theorem smoke_sendrt_ab : (Stmt.sendrt (.num 2) (.num 2)).check = false := by decide
theorem smoke_getps_rst : (Stmt.getps (.num 2)).check = false := by decide
theorem smoke_getrt_rst : (Stmt.getrt (.num 2)).check = false := by decide
theorem smoke_ldtxt_idx : (Stmt.ldtxt (.num 64) (.num 0)).check = false := by decide
theorem smoke_ldtxt_byte : (Stmt.ldtxt (.num 0) (.num 256)).check = false := by decide
theorem smoke_chr : (Stmt.ldtxt (.num 0) (.chr '\n')).check = false := by decide
theorem smoke_ldstr_fits : (Stmt.ldstr (.num 63) ['a', 'b']).check = false := by decide
theorem smoke_ldstr_idx : (Stmt.ldstr (.num 65) []).check = false := by decide
theorem smoke_ldstr_printable : (Stmt.ldstr (.num 0) ['\n']).check = false := by decide
theorem smoke_ldps_length : (Stmt.ldps ['a']).check = false := by decide
theorem smoke_ldrt_length : (Stmt.ldrt ['a']).check = false := by decide

/-! ### Decoding: words written out from the encoding strings of the opcode table; section 2.1 -/

/-- SENDPS `0000000000000000PPPPPPPP00SB0001` with P = 0x02, S = 1, B = 0. -/
theorem test_decode_sendps : decode 0b00000000000000000000001000100001#32 = .ok (.sendps 0x02#8 false true) := by decide
/-- SENDRT `0000000000000000PPPPPPPP000A0010` with P = 0x0A, A = 1. -/
theorem test_decode_sendrt : decode 0b00000000000000000000101000010010#32 = .ok (.sendrt 0x0A#8 true) := by decide
/-- GETPS `000000000000000000000000000R0011` with R = 1. -/
theorem test_decode_getps : decode 0b00000000000000000000000000010011#32 = .ok (.getps true) := by decide
/-- GETRT `000000000000000000000000000R0100` with R = 0. -/
theorem test_decode_getrt : decode 0b00000000000000000000000000000100#32 = .ok (.getrt false) := by decide
/-- LDTXT `0000000000IIIIIIDDDDDDDD00000101` with I = 63, D = 0x41. -/
theorem test_decode_ldtxt : decode 0b00000000001111110100000100000101#32 = .ok (.ldtxt 63#6 0x41#8) := by decide
/-- Section 2.1: every ILLEGAL word of the table. -/
theorem test_decode_illegal :
    ([0x000002F1#32, 0x00000041#32, 0x00010001#32, 0x00000A32#32, 0x00000023#32, 0x00000103#32, 0x00050004#32,
      0x00005415#32, 0x00405405#32, 0x80000003#32, 0x00000000#32, 0x00000006#32, 0x0000000F#32, 0xFFFFFFFF#32].all
      fun w => (decode w).toOption.isNone) = true := by decide

/-! ### One step each -/

/-- R102's example, `SENDPS 2, 0, 1`; STATUS reads 01. -/
theorem test_sendps_starts :
    (nextOf (step (st .idle .rt 9#4 psText [.command 0x00000221#32]))).map
      (fun t => ((t.mode, t.lVarb, t.lStereo), t.lPty, t.seg, t.phase, t.statusPort)) =
      some ((.ps, false, true), 2#5, 0#4, .read, 0x01#8) := by decide
/-- L1-7: programType 255 is latched as 31. -/
theorem test_sendps_truncates :
    (nextOf (exec (.sendps 0xFF#8 true true) (st .idle .ps 0#4 [] []))).map (·.lPty) = some 31#5 := by decide
/-- `SENDRT 10, 1`. -/
theorem test_sendrt_starts :
    (nextOf (step (st .idle .ps 3#4 [] [.command 0x00000A12#32]))).map
      (fun t => ((t.mode, t.lAb, t.lStereo), t.lPty, t.seg, t.phase, t.statusPort)) =
      some ((.rt, true, false), 10#5, 0#4, .read, 0x01#8) := by decide
/-- E8: SENDPS during a SEND_RT is rejected; STATUS reads 05. -/
theorem test_send_busy :
    (nextOf (step (st .wait .rt 7#4 rtText [.command 0x00000221#32]))).map
      (fun t => (t.mode, t.seg, t.phase, t.statusPort, t.trace)) =
      some (.rt, 7#4, .wait, 0x05#8, [.reject 0x00000221#32 .busyReject]) := by decide
/-- `GETPS 1` with CNT_PS = 5: RESULT = 5, CNT_PS = 0, CNT_RT kept. -/
theorem test_getps_clears :
    (nextOf (step (st .idle .ps 0#4 [] [.command 0x00000013#32]))).map (fun t => (t.result, t.cntPs, t.cntRt)) =
      some (5, 0, 9) := by decide
/-- E6: GETPS during a send leaves RESULT. -/
theorem test_getps_busy :
    (nextOf (step (st .burst .ps 1#4 psText [.command 0x00000003#32]))).map (fun t => (t.result, t.cntPs, t.statusPort)) =
      some (0, 5, 0x05#8) := by decide
/-- K5's shape: `GETRT 1` with CNT_PS = 5, CNT_RT = 9. -/
theorem test_getrt_clears :
    (nextOf (step (st .idle .ps 0#4 [] [.command 0x00000014#32]))).map (fun t => (t.result, t.cntPs, t.cntRt)) =
      some (9, 5, 0) := by decide
/-- K6's shape: `GETRT 0` never clears. -/
theorem test_getrt_keeps :
    (nextOf (exec (.getrt false) (st .idle .ps 0#4 [] []))).map (fun t => (t.result, t.cntRt)) = some (9, 9) := by decide
/-- T2: the last of two writes to index 5 stays, the list stays sorted. -/
theorem test_ldtxt_overwrites :
    (nextOf (step (st .idle .ps 0#4 [(0, 0x54#8), (5, 0x31#8), (9, 0x41#8)] [.command 0x00053205#32]))).map (·.text) =
      some [(0, 0x54#8), (5, 0x32#8), (9, 0x41#8)] := by decide
/-- E7: LDTXT during a send leaves TEXT. -/
theorem test_ldtxt_busy :
    (nextOf (step (st .read .ps 0#4 psText [.command 0x00005805#32]))).map (fun t => (t.text, t.statusPort)) =
      some (psText, 0x05#8) := by decide
/-- E9: an illegal word during a send is BUSY_REJECT; P3: in IDLE it is ILLEGAL_CMD, STATUS 02. -/
theorem test_illegal_word :
    (nextOf (step (st .read .ps 0#4 psText [.command 0#32]))).map (·.statusPort) = some 0x05#8 ∧
    (nextOf (step (st .idle .ps 0#4 psText [.command 0#32]))).map (·.statusPort) = some 0x02#8 := by decide
/-- R103's example. -/
theorem test_read :
    (nextOf (step (st .read .ps 0#4 psText [.readReply 0 .ok #v[1#8, 2#8, 3#8, 0x20#8, 5#8, 6#8, 7#8]]))).map
      (fun t => (t.rb3, t.phase)) = some (0x20#8, .burst) := by decide
/-- Section 2.3, variant A, segments 0 and 3. -/
theorem test_burst_ps_a :
    (st .burst .ps 0#4 psText []).burstBytes =
      some #v[0x12#8, 0x34#8, 0x00#8, 0x40#8, 0xE2#8, 0x64#8, 0x54#8, 0x45#8] ∧
    (st .burst .ps 3#4 psText []).burstBytes =
      some #v[0x12#8, 0x34#8, 0x00#8, 0x47#8, 0xCD#8, 0xCD#8, 0x31#8, 0x32#8] := by decide
/-- Section 2.3, variant B, stereo, programType 255, segment 3. -/
theorem test_burst_ps_b :
    psBurst tp psText true true 31#5 3#4 =
      some #v[0x12#8, 0x34#8, 0x0B#8, 0xE7#8, 0x12#8, 0x34#8, 0x31#8, 0x32#8] := by decide
/-- Section 2.4: `SENDRT 10, 0`, segment 15 (`21 4F`), its text that of rtText. -/
theorem test_burst_rt :
    rtBurst tp rtText false 10#5 15#4 =
      some #v[0x12#8, 0x34#8, 0x21#8, 0x4F#8, 0x5C#8, 0x5D#8, 0x5E#8, 0x5F#8] := by decide
/-- Section 2.2 and 2.4: group words, TP = TA = MS = 1 among them. -/
theorem test_group_words :
    gwPs tp false true 31#5 3#4 = 0x03E7#16 ∧ gwPs tp true false 2#5 1#4 = 0x0841#16 ∧
    gwPs tp1 false false 2#5 0#4 = 0x0458#16 ∧ gwPs tp1 true true 2#5 3#4 = 0x0C5F#16 ∧
    gwRt tp true 31#5 14#4 = 0x23FE#16 ∧ gwRt tp1 true 10#5 0#4 = 0x2550#16 := by decide
/-- Section 2.5. -/
theorem test_toggled :
    [0x00#8, 0x04#8, 0x20#8, 0x81#8, 0xFF#8].map (toggled tp) = [0x04#8, 0x00#8, 0x24#8, 0x85#8, 0xFB#8] := by decide
/-- The TOGGLE step's transaction and the timer request. -/
theorem test_toggle :
    (nextOf (step (st .toggle .ps 1#4 psText [.writeAck 0 .ok]))).map (fun t => (t.phase, t.trace)) =
      some (.wait, [.busWrite 0x2B#7 0x5B#8 [0x24#8] .ok, .timerStart 100]) := by decide
/-- E3: a failed TOGGLE write; STATUS reads 06, no timer, the counter kept. -/
theorem test_toggle_fails :
    (nextOf (step (st .toggle .ps 3#4 psText [.writeAck 0 .fail]))).map
      (fun t => (t.phase, t.statusPort, t.cntPs, t.trace)) =
      some (.idle, 0x06#8, 5, [.busWrite 0x2B#7 0x5B#8 [0x24#8] .fail, .abort .busAbort]) := by decide
/-- R107's example. -/
theorem test_wait_advances :
    (nextOf (step (st .wait .rt 7#4 rtText [.timerElapsed 0]))).map (fun t => (t.seg, t.phase)) =
      some (8#4, .read) := by decide
/-- K4: an 8-bit counter at FF wraps to 0 at the end of a PS cycle, and ERR is kept (E6: STATUS 04). -/
theorem test_completion_wraps :
    (nextOf (step { st .wait .ps 3#4 psText [.timerElapsed 0] with
        params := tp1, cntPs := 0xFF, status := 0x05#8 })).map
      (fun t => (t.cntPs, t.cntRt, t.phase, t.statusPort)) = some (0, 9, .idle, 0x04#8) := by decide
/-- T6: only TEXT[0] written, then the seg-0 BURST. -/
theorem test_unwritten_text :
    faultOf (step (st .burst .ps 0#4 [(0, 0x54#8)] [.writeAck 0 .ok])) = some .unwrittenText := by decide
/-- X2: reset in WAIT; the old request's answer is ignored. -/
theorem test_reset_in_wait :
    (nextOf (step (st .wait .ps 1#4 psText [.rst, .timerElapsed 0]))).bind (fun t => nextOf (step t)) =
      some { State.reset with params := tp, epoch := 1 } := by decide
/-- R83 and R65: the burst's bytes on the bus, and the two address bytes 0x56 and 0x57. -/
theorem test_wire :
    (Event.busWrite 0x2B#7 0x10#8 [1#8, 2#8] .ok).wireBytes = [0x10#8, 1#8, 2#8] ∧
    addressByte 0x2B#7 false = 0x56#8 ∧ addressByte 0x2B#7 true = 0x57#8 := by decide

/-! ### Witnesses: the hypotheses of each statement can be met -/

theorem witness_EncodeDecodeRoundTrip : decode 0x00000221#32 = .ok (.sendps 2#8 false true) := by decide

theorem witness_TableRowsDisjoint :
    opcodeTable[4] ∈ opcodeTable ∧ opcodeTable[4].Matches 0x003F4105#32 := by
  constructor <;> decide

theorem witness_LoadStringExpands :
    (Stmt.ldstr (.num 62) ['M', '1']).check = true ∧ ['M', '1'][1]? = some '1' := by decide

theorem witness_StepRunsDecodedCommand :
    decode 0x00000013#32 = .ok (.getps true) ∧
    (st .read .ps 0#4 psText [.command 0x00000013#32]).inputs = .command 0x00000013#32 :: [] := by decide

theorem witness_BusyWordRejected :
    (st .wait .rt 15#4 rtText [.command 0#32]).inputs = .command 0#32 :: [] ∧
    (st .wait .rt 15#4 rtText [.command 0#32]).phase ≠ .idle := by decide

theorem witness_IllegalWordRejected :
    (st .idle .ps 0#4 [] [.command 0x00000006#32]).inputs = .command 0x00000006#32 :: [] ∧
    (st .idle .ps 0#4 [] [.command 0x00000006#32]).phase = .idle ∧
    decode 0x00000006#32 = .error .unassignedOpcode := by decide

theorem witness_BusyCommandChangesOnlyErr : (st .read .ps 0#4 psText []).phase ≠ .idle := by decide

/-- The invariant holds in an idle state and in one in the last segment of a send. -/
theorem witness_Inv : Inv (st .idle .ps 0#4 psText []) ∧ Inv (st .wait .ps 3#4 psText [.timerElapsed 0]) := by
  constructor <;> constructor <;> decide

theorem witness_StatusRegisterFields : Inv (st .idle .ps 0#4 psText []) ∧ Inv (st .burst .rt 15#4 psText []) := by
  constructor <;> constructor <;> decide

/-- The hypothesis of SendCommandsStart, GetCommandsReadAndClear, ReadAfterClearingReadIsZero and LoadTextWritesOneByte. -/
theorem witness_commands_idle :
    (st .idle .ps 0#4 psText []).phase = .idle ∧ (st .idle .ps 0#4 psText []).text.wf = true := by decide

theorem witness_PsGroupWordLayout : 0 < 4 ∧ 3 < 4 := by decide

theorem witness_PsBurstBytes :
    Memory.read psText (2 * 3) = some 0x31#8 ∧ Memory.read psText (2 * 3 + 1) = some 0x32#8 := by decide

theorem witness_RtBurstBytes :
    Memory.read rtText (4 * 15) = some 0x5C#8 ∧ Memory.read rtText (4 * 15 + 1) = some 0x5D#8 ∧
    Memory.read rtText (4 * 15 + 2) = some 0x5E#8 ∧ Memory.read rtText (4 * 15 + 3) = some 0x5F#8 := by decide

/-- The bursts of a cycle on a written text, as a function of the segment. -/
def psBursts (k : Nat) : Vector Byte 8 :=
  (psBurst tp psText false true 2#5 (BitVec.ofNat 4 k)).getD #v[0#8, 0#8, 0#8, 0#8, 0#8, 0#8, 0#8, 0#8]

def rtBursts (k : Nat) : Vector Byte 8 :=
  (rtBurst tp rtText true 10#5 (BitVec.ofNat 4 k)).getD #v[0#8, 0#8, 0#8, 0#8, 0#8, 0#8, 0#8, 0#8]

theorem witness_PsCycleSendsAfInOrder :
    ∀ k, k < 4 → psBurst tp psText false true 2#5 (BitVec.ofNat 4 k) = some (psBursts k) := by decide

theorem witness_CyclesSendTextInOrder :
    (∀ k, k < 4 → psBurst tp psText false true 2#5 (BitVec.ofNat 4 k) = some (psBursts k)) ∧
    (∀ k, k < 16 → rtBurst tp rtText true 10#5 (BitVec.ofNat 4 k) = some (rtBursts k)) := by decide

theorem witness_ReadStepKeepsByteThree :
    (st .read .ps 0#4 psText [.readReply 0 .ok (rb 0x20#8)]).phase = .read ∧
    (st .read .ps 0#4 psText [.readReply 0 .ok (rb 0x20#8)]).inputs = .readReply 0 .ok (rb 0x20#8) :: [] ∧
    (st .read .ps 0#4 psText [.readReply 0 .fail (rb 0x20#8)]).inputs = .readReply 0 .fail (rb 0x20#8) :: [] := by
  decide

theorem witness_OtherReadBytesHaveNoEffect :
    (rb 0x20#8)[3] = (#v[1#8, 2#8, 3#8, 0x20#8, 5#8, 6#8, 7#8] : Vector Byte 7)[3] ∧
    ∃ t, step (st .read .ps 0#4 psText [.readReply 0 .ok (rb 0x20#8)]) = .next t := by
  exact ⟨by decide, _, rfl⟩

theorem witness_BurstStepWritesBurst :
    (st .burst .ps 3#4 psText [.writeAck 0 .ok]).phase = .burst ∧
    (st .burst .ps 3#4 psText [.writeAck 0 .ok]).burstBytes = some (psBursts 3) ∧
    (st .burst .ps 3#4 psText [.writeAck 0 .ok]).inputs = .writeAck 0 .ok :: [] ∧
    (st .burst .rt 15#4 rtText [.writeAck 0 .fail]).burstBytes = some (rtBursts 15) ∧
    (st .burst .rt 15#4 rtText [.writeAck 0 .fail]).inputs = .writeAck 0 .fail :: [] := by decide

theorem witness_ToggleStepHandshake :
    (st .toggle .ps 0#4 psText [.writeAck 0 .ok]).phase = .toggle ∧
    (st .toggle .ps 0#4 psText [.writeAck 0 .ok]).inputs = .writeAck 0 .ok :: [] ∧
    (st .toggle .ps 0#4 psText [.writeAck 0 .fail]).inputs = .writeAck 0 .fail :: [] := by decide

theorem witness_ToggleFlipsOnlyBitTwo :
    ∃ t, step (st .toggle .ps 0#4 psText [.writeAck 0 .ok]) = .next t ∧ t.phase = .wait := ⟨_, rfl, rfl⟩

theorem witness_WaitStepAdvances :
    (st .wait .ps 2#4 psText [.timerElapsed 0]).phase = .wait ∧
    (st .wait .ps 2#4 psText [.timerElapsed 0]).inputs = .timerElapsed 0 :: [] ∧
    (st .wait .ps 2#4 psText [.timerElapsed 0]).seg ≠ 3#4 ∧ (st .wait .rt 14#4 rtText [.timerElapsed 0]).seg ≠ 15#4 := by
  decide

theorem witness_CompletionCountsOneCycle :
    (st .wait .ps 3#4 psText [.timerElapsed 0]).mode = .ps ∧ (st .wait .ps 3#4 psText [.timerElapsed 0]).seg = 3#4 ∧
    (st .wait .rt 15#4 rtText [.timerElapsed 0]).mode = .rt ∧ (st .wait .rt 15#4 rtText [.timerElapsed 0]).seg = 15#4 ∧
    (st .wait .rt 15#4 rtText [.timerElapsed 0]).phase = .wait ∧
    (st .wait .rt 15#4 rtText [.timerElapsed 0]).inputs = .timerElapsed 0 :: [] := by decide

theorem witness_BusFailureAborts :
    (∃ t, step (st .read .ps 0#4 psText [.readReply 0 .fail (rb 0#8)]) = .next t) ∧
    (∃ t, step (st .burst .ps 2#4 psText [.writeAck 0 .fail]) = .next t) ∧
    (∃ t, step (st .toggle .rt 15#4 rtText [.writeAck 0 .fail]) = .next t) :=
  ⟨⟨_, rfl⟩, ⟨_, rfl⟩, ⟨_, rfl⟩⟩

theorem witness_OnlyTimerOrResetEndsWait :
    (∃ t, step (st .wait .ps 0#4 psText [.timerElapsed 0]) = .next t ∧ t.phase ≠ .wait) ∧
    (∃ t, step (st .wait .ps 0#4 psText [.rst]) = .next t ∧ t.phase ≠ .wait) :=
  ⟨⟨_, rfl, by decide⟩, ⟨_, rfl, by decide⟩⟩

theorem witness_HeldWithoutAnswer :
    (st .wait .ps 0#4 psText []).inputs = [] ∧ (st .burst .ps 3#4 psText []).inputs = [] ∧
    (st .burst .ps 3#4 psText []).burstBytes = some (psBursts 3) := by decide

theorem witness_SendEndsOnlyThreeWays :
    (∃ t, step (st .wait .ps 3#4 psText [.timerElapsed 0]) = .next t ∧ t.phase = .idle) ∧
    (∃ t, step (st .read .rt 0#4 rtText [.readReply 0 .fail (rb 0#8)]) = .next t ∧ t.phase = .idle) ∧
    (∃ t, step (st .toggle .rt 0#4 rtText [.rst]) = .next t ∧ t.phase = .idle) :=
  ⟨⟨_, rfl, rfl⟩, ⟨_, rfl, rfl⟩, ⟨_, rfl, rfl⟩⟩

theorem witness_StaleAnswersIgnored :
    (0 : Nat) ≠ ({ st .wait .ps 0#4 psText [.timerElapsed 0] with epoch := 1 } : State).epoch ∧
    (st .wait .ps 0#4 psText [.timerElapsed 0]).inputs = .timerElapsed 0 :: [] ∧
    (st .read .ps 0#4 psText [.readReply 0 .ok (rb 0#8)]).inputs = .readReply 0 .ok (rb 0#8) :: [] ∧
    (st .burst .ps 0#4 psText [.writeAck 0 .ok]).inputs = .writeAck 0 .ok :: [] := by decide

theorem witness_ResetStepSetsEveryElement : (st .burst .ps 2#4 psText [.rst]).inputs = .rst :: [] := by decide

theorem witness_StepKeepsInvariant :
    Inv (st .wait .ps 3#4 psText [.timerElapsed 0]) ∧
    ∃ t, step (st .wait .ps 3#4 psText [.timerElapsed 0]) = .next t := ⟨witness_Inv.2, _, rfl⟩

/-- The hypothesis of CountersChangeOnlyByRule, LatchesAndParametersFixed, TraceOnlyGrows, BusTransactionsAreThreeKinds and
ChipWritesConfined, in a step that counts, one that stays in a send and one that writes. -/
theorem witness_step_answers :
    (∃ t, step (st .wait .ps 3#4 psText [.timerElapsed 0]) = .next t ∧ t.cntPs = 6) ∧
    (∃ t, step (st .idle .ps 0#4 psText [.command 0x00000014#32]) = .next t ∧ t.cntRt = 0) ∧
    (∃ t, step (st .burst .ps 0#4 psText [.writeAck 0 .ok]) = .next t ∧ t.phase ≠ .idle ∧ t.trace.length = 1) :=
  ⟨⟨_, rfl, rfl⟩, ⟨_, rfl, rfl⟩, ⟨_, rfl, by decide, rfl⟩⟩

theorem witness_TextChangesOnlyByLoadText :
    (∃ t, step (st .idle .ps 0#4 psText [.command 0x00005805#32]) = .next t ∧ t.text ≠ psText) ∧
    (∃ t, step (st .wait .ps 0#4 psText [.rst]) = .next t ∧ t.text ≠ psText) :=
  ⟨⟨_, rfl, by decide⟩, ⟨_, rfl, by decide⟩⟩

theorem witness_UnwrittenTextFaults :
    (st .burst .ps 3#4 (psText.take 7) []).seg = BitVec.ofNat 4 3 ∧ Memory.read (psText.take 7) 7 = none ∧
    (st .burst .ps 3#4 (psText.take 7) []).inputs = [] ∧ (2 * 3 ≤ 7 ∧ 7 < 2 * 3 + 2) ∧
    (st .burst .rt 15#4 psText [.writeAck 0 .ok]).seg = BitVec.ofNat 4 15 ∧ Memory.read psText 60 = none ∧
    (st .burst .rt 15#4 psText [.writeAck 0 .ok]).inputs = .writeAck 0 .ok :: [] ∧ (4 * 15 ≤ 60 ∧ 60 < 4 * 15 + 4) := by
  decide

theorem witness_ForeignAccessFaultsWhileBusy :
    (st .read .ps 0#4 psText [.foreignAccess]).inputs = .foreignAccess :: [] ∧
    (st .read .ps 0#4 psText [.foreignAccess]).busy = true ∧ (st .idle .ps 0#4 psText [.foreignAccess]).busy = false := by
  decide

theorem witness_StepStopsOnlyByRule :
    step (st .burst .ps 0#4 [] []) = .fault .unwrittenText ∧
    step (st .read .ps 0#4 psText [.foreignAccess]) = .fault .foreignDeviceAccess := ⟨rfl, rfl⟩

theorem witness_SegmentRuns :
    (st .read .ps 2#4 psText (segmentInputs 0 (rb 0x20#8) ++ [])).phase = .read ∧
    (st .read .ps 2#4 psText (segmentInputs 0 (rb 0x20#8) ++ [])).burstBytes = some (psBursts 2) ∧
    (st .read .ps 2#4 psText (segmentInputs 0 (rb 0x20#8) ++ [])).seg ≠ lastSeg .ps := by decide

theorem witness_PsCycleRuns :
    (∀ a, a < 8 → Memory.read psText a ≠ none) ∧
    (st .idle .ps 0#4 psText (.command (encode (.sendps 2#8 false true)) ::
      (List.range 4).flatMap (fun k => segmentInputs 0 (rb (BitVec.ofNat 8 k))) ++ [])).phase = .idle := by decide

theorem witness_RtCycleRuns :
    (∀ a, a < 64 → Memory.read rtText a ≠ none) ∧
    (st .idle .ps 0#4 rtText (.command (encode (.sendrt 10#8 true)) ::
      (List.range 16).flatMap (fun k => segmentInputs 0 (rb (BitVec.ofNat 8 k))) ++ [])).phase = .idle := by decide

end Sys2Proof.Tests
end

/-! SUPPORT. The invariant of R39 under each shared operation and each sequencer step, and that every step keeps it. -/

namespace Sys2Proof.Safety
open Sys2Proof.Machine

variable {s s' : State}

/-! ### Operations on STATUS and PHASE -/

/-- Taking a move of another agent: the invariant does not read `inputs`. -/
theorem Inv.withInputs (h : Inv s) (rest : List Input) : Inv { s with inputs := rest } := { h with }

/-- An error code, or the code 0 of an acceptance, leaves `BUSY` as it is (R200). -/
theorem Inv.setErr (h : Inv s) (c : ErrCode) : Inv (s.setErr c) :=
  { h with
    busy_iff := by simpa [State.busy] using h.busy_iff
    err_range := by simpa [State.err] using c.bits_le
    reserved := packStatus_reserved .. }

theorem Inv.emit (h : Inv s) (e : Event) : Inv (s.emit e) := { h with }

theorem Inv.reject (h : Inv s) (w : Word) (c : ErrCode) : Inv (s.reject w c) := (h.setErr c).emit _

theorem Inv.accept (h : Inv s) (w : Word) : Inv (s.accept w) := (h.setErr .none).emit _

/-- From one step of a send to another one, in the same segment: `BUSY` stays 1. -/
theorem Inv.withPhase (h : Inv s) (hs : s.phase ≠ .idle) {p : Phase} (hp : p ≠ .idle) : Inv { s with phase := p } :=
  { h with
    busy_iff := iff_of_true (h.busy_iff.mpr hs) hp
    seg_range := fun _ => h.seg_range hs }

/-- The end of a send, by completion or abort: PHASE is IDLE and `BUSY` is 0 (R108, R109). -/
theorem Inv.endSend (h : Inv s) : Inv (({ s with phase := .idle } : State).setBusy false) :=
  { h with
    busy_iff := by simp [State.busy]
    seg_range := fun hp => absurd rfl hp
    err_range := by simpa [State.err] using h.err_range
    reserved := packStatus_reserved .. }

theorem Inv.abort (h : Inv s) : Inv s.abort := (h.endSend.setErr .busAbort).emit _

/-! ### Commands -/

/-- A send starts at segment 0 with `BUSY` 1, whatever the state was (R102). -/
theorem Inv.startSend (h : Inv s) (m : Mode) (vb st ab : Bool) (pty : Byte) : Inv (startSend m vb st ab pty s) :=
  { h with
    busy_iff := by simp [startSend_eq, State.busy]
    seg_range := fun _ _ => (by decide : 0#4 ≤ 3#4)
    err_range := by simpa [startSend_eq, State.err] using h.err_range
    reserved := packStatus_reserved .. }

/-- A counter after a GET, cleared or not, keeps its width (R170, R171). -/
theorem cleared_lt {n b : Nat} (h : n < b) (rst : Bool) : (if rst then 0 else n) < b := by
  split <;> omega

theorem Inv.accepted (h : Inv s) (i : Instr) : Inv (accepted i s) := by
  have ha := h.accept (encode i)
  cases i with
  | sendps pty vb st => exact ha.startSend ..
  | sendrt pty ab => exact ha.startSend ..
  | getps rst => exact { ha with cntPs_width := cleared_lt h.cntPs_width rst, result_width := h.cntPs_width }
  | getrt rst => exact { ha with cntRt_width := cleared_lt h.cntRt_width rst, result_width := h.cntRt_width }
  | ldtxt idx byte => exact { ha with text_wf := Memory.wf_write _ idx byte h.text_wf }

/-! ### Sequencer steps -/

theorem Inv.readStep (h : Inv s) (hp : s.phase = .read) (ack : Ack) (rb : Vector Byte 7) : Inv (readStep ack rb s) := by
  cases ack with
  | ok => exact { h.withPhase (p := .burst) (by simp [hp]) (by simp) with }
  | fail => exact (h.emit _).abort

theorem Inv.burstStep (h : Inv s) (hp : s.phase = .burst) {ack : Ack} (he : burstStep ack s = .next s') : Inv s' := by
  obtain ⟨b, -, ⟨-, rfl⟩ | ⟨-, rfl⟩⟩ := burstStep_next he
  · exact { h.withPhase (p := .toggle) (by simp [hp]) (by simp) with }
  · have ha := h.abort
    rw [State.abort_eq] at ha
    exact { ha with }

theorem Inv.toggleStep (h : Inv s) (hp : s.phase = .toggle) (ack : Ack) : Inv (toggleStep ack s) := by
  cases ack with
  | ok => exact { h.withPhase (p := .wait) (by simp [hp]) (by simp) with }
  | fail => exact (h.emit _).abort

/-- In a PS send a segment before the last has a successor that is at most 3. -/
theorem succ_seg_le {seg : BitVec 4} (h : seg ≤ 3#4) (hne : seg ≠ 3#4) : seg + 1#4 ≤ 3#4 := by
  bv_omega

theorem Inv.waitStep (h : Inv s) (hp : s.phase = .wait) : Inv (waitStep s) := by
  have hbusy : s.phase ≠ .idle := by simp [hp]
  have hpos : 0 < 2 ^ s.params.cntW := Nat.two_pow_pos _
  obtain ⟨hseg, he⟩ | ⟨-, -, he⟩ | ⟨-, -, he⟩ := waitStep_cases s <;> rw [he]
  · refine { h.withPhase (p := .read) hbusy (by simp) with seg_range := fun _ (hm : s.mode = .ps) => ?_ }
    rw [hm] at hseg
    exact succ_seg_le (h.seg_range hbusy hm) hseg
  · exact { h.endSend with cntPs_width := Nat.mod_lt _ hpos }
  · exact { h.endSend with cntRt_width := Nat.mod_lt _ hpos }

/-- A reset gives the invariant in every instance, from every state (R38, R230). -/
theorem inv_resetBlock (s : State) : Inv s.resetBlock where
  busy_iff := by simp [State.resetBlock, State.reset, State.busy, statusBusy]
  seg_range := fun hp => absurd rfl hp
  err_range := (by decide : State.reset.err ≤ 3#3)
  reserved := (by decide : State.reset.status.extractLsb' 4 4 = 0#4)
  cntPs_width := Nat.two_pow_pos _
  cntRt_width := Nat.two_pow_pos _
  result_width := Nat.two_pow_pos _
  text_wf := State.reset_text_wf

/-- Settles O42: by the cases of a step, each of which is one of the operations above. -/
theorem stepKeepsInvariant : Obligations.StepKeepsInvariant := by
  intro s s' h hs
  cases step_cases hs with
  | noMove _ he => exact he ▸ h
  | ignored _ rest _ _ _ he => exact he ▸ h.withInputs rest
  | busyReject w rest _ _ he => exact he ▸ (h.withInputs rest).reject w .busyReject
  | illegal w rest _ _ _ _ he => exact he ▸ (h.withInputs rest).reject w .illegalCmd
  | command _ rest i _ _ _ he => exact he ▸ (h.withInputs rest).accepted i
  | read ack rb rest _ hp he => exact he ▸ (h.withInputs rest).readStep hp ack rb
  | burst _ rest _ hp he => exact (h.withInputs rest).burstStep hp he
  | toggle ack rest _ hp he => exact he ▸ (h.withInputs rest).toggleStep hp ack
  | wait rest _ hp he => exact he ▸ (h.withInputs rest).waitStep hp
  | reset rest _ he => exact he ▸ inv_resetBlock _

end Sys2Proof.Safety

/-! SUPPORT. What each shared operation and each sequencer step appends to the trace, and the form of the bus transaction among it
(R57). -/

namespace Sys2Proof.Safety
open Sys2Proof.Machine

/-- The bus transaction that the sequencer step of a phase makes (R57, R103 to R105). -/
inductive BusKind (p : Params) : Phase → Event → Prop where
  | read (rb : Vector Byte 7) (ack : Ack) : BusKind p .read (.busRead 0x2B#7 7 rb.toList ack)
  | burst (b : Vector Byte 8) (ack : Ack) : BusKind p .burst (.busWrite 0x2B#7 0x10#8 b.toList ack)
  | toggle (b : Byte) (ack : Ack) : BusKind p .toggle (.busWrite 0x2B#7 p.toggleReg.addr [b] ack)

/-- The events one step records: at most two, and a bus transaction can only be the first of them, in the form that belongs to the
phase. -/
inductive StepEvents (p : Params) (ph : Phase) : List Event → Prop where
  | quiet {es : List Event} (hlen : es.length ≤ 2) (hes : ∀ e ∈ es, isBus e = false) : StepEvents p ph es
  | bus {e : Event} {es : List Event} (he : BusKind p ph e) (hlen : es.length ≤ 1) (hes : ∀ f ∈ es, isBus f = false) :
      StepEvents p ph (e :: es)

/-- The step from `s` to `s'` appends to the trace, and only what `StepEvents` allows. -/
def Records (s s' : State) : Prop := ∃ es, s'.trace = s.trace ++ es ∧ StepEvents s.params s.phase es

variable {s s' : State} {p : Params} {ph : Phase} {es : List Event}

/-! ### Operations -/

theorem Records.of_trace_eq (h : s'.trace = s.trace) : Records s s' :=
  ⟨[], by simp [h], .quiet (by simp) (by simp)⟩

/-- Turned away or accepted, a word gives one event, which is not a bus transaction (R100, R201, R202). -/
theorem records_reject (s : State) (w : Word) (c : ErrCode) : Records s (s.reject w c) :=
  ⟨[.reject w c], rfl, .quiet (by simp) (by simp [isBus])⟩

theorem records_accepted (s : State) (i : Instr) : Records s (accepted i s) := by
  have ht : (accepted i s).trace = s.trace ++ [.accept (encode i)] := by cases i <;> rfl
  exact ⟨_, ht, .quiet (by simp) (by simp [isBus])⟩

theorem records_readStep (hp : s.phase = .read) (ack : Ack) (rb : Vector Byte 7) : Records s (readStep ack rb s) := by
  have hk (a : Ack) : BusKind s.params s.phase (.busRead 0x2B#7 7 rb.toList a) := hp ▸ .read rb a
  cases ack with
  | ok => exact ⟨_, by rw [readStep_ok], .bus (hk .ok) (by simp) (by simp)⟩
  | fail => exact ⟨_, by rw [readStep_fail], .bus (hk .fail) (by simp) (by simp [isBus])⟩

theorem records_burstStep (hp : s.phase = .burst) {ack : Ack} (h : burstStep ack s = .next s') : Records s s' := by
  obtain ⟨b, -, hs'⟩ := burstStep_next h
  have hk (a : Ack) : BusKind s.params s.phase (.busWrite 0x2B#7 0x10#8 b.toList a) := hp ▸ .burst b a
  obtain ⟨-, rfl⟩ | ⟨-, rfl⟩ := hs'
  · exact ⟨_, rfl, .bus (hk .ok) (by simp) (by simp)⟩
  · exact ⟨_, rfl, .bus (hk .fail) (by simp) (by simp [isBus])⟩

theorem records_toggleStep (hp : s.phase = .toggle) (ack : Ack) : Records s (toggleStep ack s) := by
  have hk (a : Ack) : BusKind s.params s.phase (.busWrite 0x2B#7 s.params.toggleReg.addr [s.rb3 ^^^ 0x04#8] a) :=
    hp ▸ .toggle _ a
  cases ack with
  | ok => exact ⟨_, by rw [toggleStep_ok], .bus (hk .ok) (by simp) (by simp [isBus])⟩
  | fail => exact ⟨_, by rw [toggleStep_fail], .bus (hk .fail) (by simp) (by simp [isBus])⟩

/-- The WAIT step is no bus transaction (R107). -/
theorem records_waitStep (s : State) : Records s (waitStep s) := by
  obtain ⟨-, he⟩ | ⟨-, -, he⟩ | ⟨-, -, he⟩ := waitStep_cases s <;>
    exact ⟨_, by rw [he], .quiet (by simp) (by simp [isBus])⟩

/-! ### One step -/

/-- Taking the move from `inputs` changes neither the trace nor what `StepEvents` reads, so each operation's lemma on the state
without the move is a statement about `s`. -/
theorem step_records (hs : step s = .next s') : Records s s' := by
  cases step_cases hs with
  | noMove _ he => exact .of_trace_eq (he ▸ rfl)
  | ignored _ _ _ _ _ he => exact .of_trace_eq (he ▸ rfl)
  | busyReject w rest _ _ he => exact he ▸ records_reject { s with inputs := rest } w .busyReject
  | illegal w rest _ _ _ _ he => exact he ▸ records_reject { s with inputs := rest } w .illegalCmd
  | command _ rest i _ _ _ he => exact he ▸ records_accepted { s with inputs := rest } i
  | read ack rb rest _ hp he => exact he ▸ records_readStep (s := { s with inputs := rest }) hp ack rb
  | burst _ rest _ hp he => exact records_burstStep (s := { s with inputs := rest }) hp he
  | toggle ack rest _ hp he => exact he ▸ records_toggleStep (s := { s with inputs := rest }) hp ack
  | wait rest _ _ he => exact he ▸ records_waitStep { s with inputs := rest }
  | reset _ _ he => exact .of_trace_eq (he ▸ rfl)

/-! ### The bus transactions among the events of a step -/

theorem StepEvents.count_bus_le_one (h : StepEvents p ph es) : (es.filter isBus).length ≤ 1 := by
  have none_of {l : List Event} (hl : ∀ e ∈ l, isBus e = false) : l.filter isBus = [] :=
    List.filter_eq_nil_iff.mpr fun e he => by simp [hl e he]
  cases h with
  | quiet _ hes => simp [none_of hes]
  | bus _ _ hes =>
    rw [List.filter_cons, none_of hes]
    split <;> simp

theorem StepEvents.busKind_of_mem (h : StepEvents p ph es) {e : Event} (he : e ∈ es) (hb : isBus e = true) :
    BusKind p ph e := by
  cases h with
  | quiet _ hes => simp [hes e he] at hb
  | bus hk _ hes =>
    obtain rfl | he := List.mem_cons.mp he
    · exact hk
    · simp [hes e he] at hb

/-- A transaction of one of the kinds, with the lengths written out (R57). -/
theorem BusKind.forms {e : Event} (h : BusKind p ph e) :
    (ph = .read ∧ ∃ rb ack, rb.length = 7 ∧ e = .busRead 0x2B#7 7 rb ack) ∨
    (ph = .burst ∧ ∃ bs ack, bs.length = 8 ∧ e = .busWrite 0x2B#7 0x10#8 bs ack) ∨
    (ph = .toggle ∧ ∃ b ack, e = .busWrite 0x2B#7 p.toggleReg.addr [b] ack) := by
  cases h with
  | read rb ack => exact .inl ⟨rfl, _, _, rb.length_toList, rfl⟩
  | burst b ack => exact .inr (.inl ⟨rfl, _, _, b.length_toList, rfl⟩)
  | toggle b ack => exact .inr (.inr ⟨rfl, _, _, rfl⟩)

/-- Settles O48: by the events each kind of step records, of which only the first can be a bus transaction. -/
theorem busTransactionsAreThreeKinds : Obligations.BusTransactionsAreThreeKinds := by
  intro s s' hs
  obtain ⟨es, htrace, hes⟩ := step_records hs
  exact ⟨es, htrace, hes.count_bus_le_one, fun _ he hb => (hes.busKind_of_mem he hb).forms⟩

end Sys2Proof.Safety

/-! SUPPORT. What the assembler makes of a string (R86), and the spec's example words and lines. -/

namespace Sys2Proof

/-! ### LDSTR -/

theorem assemble_of_check {st : Stmt} (h : st.check = true) : assemble st = some (st.expand.map encode) :=
  if_pos h

/-- A checked LDSTR fits into TEXT (R86). -/
theorem ldstr_fits_of_check {n : Nat} {text : List Char} (h : (Stmt.ldstr (.num n) text).check = true) :
    n + text.length ≤ 64 := by
  simp only [Stmt.check, Bool.and_eq_true, decide_eq_true_eq] at h
  obtain ⟨⟨-, hfit⟩, -⟩ := h
  exact hfit

/-- The recursion of `loadString` as a map over positions: character `k` is loaded at `idx + k`. -/
theorem loadString_eq_mapIdx (idx : Nat) (text : List Char) :
    loadString idx text = text.mapIdx fun k c => .ldtxt (BitVec.ofNat 6 (idx + k)) (byteOfChar c) := by
  induction text generalizing idx with
  | nil => rfl
  | cons c cs ih =>
    simp only [loadString, ih, List.mapIdx_cons, Nat.add_zero, Nat.add_assoc, Nat.add_comm 1]

/-- Settles O9: the words are the encodings of `loadString`, one per position of the text, and the check bounds the positions. -/
theorem loadStringExpands : Obligations.LoadStringExpands := by
  intro n text h
  refine ⟨(loadString n text).map encode, assemble_of_check h, by simp [loadString_eq_mapIdx], fun k c hc => ⟨?_, ?_⟩⟩
  · simp [loadString_eq_mapIdx, hc, byteOfChar]
  · have hk : k < text.length := (List.getElem?_eq_some_iff.mp hc).1
    have hfit := ldstr_fits_of_check h
    omega

/-! ### The spec's examples -/

/-- Settles O6: the decoder evaluated at the nine words. -/
theorem specWordsDecode : Obligations.SpecWordsDecode := by
  unfold Obligations.SpecWordsDecode
  decide

/-- Settles O7: the assembler evaluated at the nine lines. -/
theorem assemblerExamples : Obligations.AssemblerExamples := by
  unfold Obligations.AssemblerExamples
  decide

end Sys2Proof

/-! SUPPORT. The four steps of the segment sequence as single steps of the machine (R103 to R108), and the ways a send ends (R111). -/

namespace Sys2Proof.Safety
open Sys2Proof.Machine

variable {s s' : State}

/-! ### How a sequencer step reaches IDLE -/

/-- The step recorded a bus transaction, then `Abort(3)` (R109). -/
def RecordsAbort (s s' : State) : Prop := ∃ e, isBus e = true ∧ s'.trace = s.trace ++ [e, .abort .busAbort]

theorem readStep_idle_aborts {ack : Ack} {rb : Vector Byte 7} (h : (readStep ack rb s).phase = .idle) :
    RecordsAbort s (readStep ack rb s) := by
  cases ack with
  | ok => simp [readStep_ok] at h
  | fail => exact ⟨_, rfl, by rw [readStep_fail]⟩

theorem burstStep_idle_aborts {ack : Ack} (hs : burstStep ack s = .next s') (h : s'.phase = .idle) :
    RecordsAbort s s' := by
  obtain ⟨b, -, ⟨-, rfl⟩ | ⟨-, rfl⟩⟩ := burstStep_next hs
  · cases h
  · exact ⟨_, rfl, rfl⟩

theorem toggleStep_idle_aborts {ack : Ack} (h : (toggleStep ack s).phase = .idle) :
    RecordsAbort s (toggleStep ack s) := by
  cases ack with
  | ok => simp [toggleStep_ok] at h
  | fail => exact ⟨_, rfl, by rw [toggleStep_fail]⟩

/-- The WAIT step reaches IDLE only by completion, in the last segment (R107, R108). -/
theorem waitStep_idle_completes (h : (waitStep s).phase = .idle) :
    s.seg = lastSeg s.mode ∧ (waitStep s).trace = s.trace ++ [.timerElapsed, .done s.mode] := by
  obtain ⟨-, he⟩ | ⟨hm, hseg, he⟩ | ⟨hm, hseg, he⟩ := waitStep_cases s
  · simp [he] at h
  · exact ⟨by rw [hm, hseg, lastSeg], by rw [he, hm]⟩
  · exact ⟨by rw [hm, hseg, lastSeg], by rw [he, hm]⟩

/-- Settles O38: by the cases of a step. A command and a move that is ignored do not end a send, and each sequencer step that ends
one aborts or completes. -/
theorem sendEndsOnlyThreeWays : Obligations.SendEndsOnlyThreeWays := by
  intro s t hrun hs hidle
  cases step_cases hs with
  | noMove _ he => exact absurd (he ▸ hidle) hrun
  | ignored _ _ _ _ _ he => exact absurd (he ▸ hidle :) hrun
  | busyReject _ _ _ _ he => exact absurd (he ▸ hidle :) hrun
  | illegal _ _ _ _ hp _ _ => exact absurd hp hrun
  | command _ _ _ _ hp _ _ => exact absurd hp hrun
  | read _ _ rest _ _ he =>
    subst he
    exact .inr (.inl (readStep_idle_aborts (s := { s with inputs := rest }) hidle))
  | burst _ rest _ _ he => exact .inr (.inl (burstStep_idle_aborts (s := { s with inputs := rest }) he hidle))
  | toggle _ rest _ _ he =>
    subst he
    exact .inr (.inl (toggleStep_idle_aborts (s := { s with inputs := rest }) hidle))
  | wait rest _ hp he =>
    subst he
    exact .inl ⟨hp, waitStep_idle_completes (s := { s with inputs := rest }) hidle⟩
  | reset rest h _ => exact .inr (.inr ⟨rest, h⟩)

/-! ### Each sequencer step exactly -/

/-- Settles O28: the answer reaches `readStep`, whose two outcomes are `readStep_ok` and `readStep_fail`. -/
theorem readStepKeepsByteThree : Obligations.ReadStepKeepsByteThree := by
  intro s rb rest hp
  refine ⟨fun h => ?_, fun h => ?_⟩
  · rw [step_read s .ok rb rest hp h, readStep_ok]
  · rw [step_read s .fail rb rest hp h, readStep_fail]

/-- Settles O30: the acknowledgement reaches `burstStep`. The burst does not depend on `inputs`, so it is that of the state without
the move too. -/
theorem burstStepWritesBurst : Obligations.BurstStepWritesBurst := by
  intro s b rest hp hb
  have hb' : ({ s with inputs := rest } : State).burstBytes = some b := hb
  refine ⟨rfl, fun h => ?_, fun h => ?_⟩
  · rw [step_burst s .ok rest hp h, burstStep_ok _ b hb']
  · rw [step_burst s .fail rest hp h, burstStep_fail _ b hb']

/-- Settles O31: the acknowledgement reaches `toggleStep`, whose two outcomes are `toggleStep_ok` and `toggleStep_fail`. -/
theorem toggleStepHandshake : Obligations.ToggleStepHandshake := by
  intro s rest hp
  refine ⟨fun h => ?_, fun h => ?_⟩
  · rw [step_toggle s .ok rest hp h, toggleStep_ok]
  · rw [step_toggle s .fail rest hp h, toggleStep_fail]

/-- Settles O34: the timer's answer reaches `waitStep`, which completes the send in its mode's last segment. -/
theorem completionCountsOneCycle : Obligations.CompletionCountsOneCycle := by
  intro s rest hp h
  rw [step_wait s rest hp h]
  refine ⟨fun hm hseg => ?_, fun hm hseg => ?_⟩
  · rw [waitStep_last_ps { s with inputs := rest } hm hseg]; rfl
  · rw [waitStep_last_rt { s with inputs := rest } hm hseg]; rfl

end Sys2Proof.Safety

/-! SUPPORT. The bytes of a PS burst: the halves of a 16-bit word as sent, the burst when its TEXT bytes were written (R132),
and the two variants of its block C. -/

namespace Sys2Proof.Machine

/-- A word sent high byte first is the word (R9). -/
theorem hi8_lo8_toNat (v : Half) : 256 * (hi8 v).toNat + (lo8 v).toNat = v.toNat := by
  have hv : v.toNat < 2 ^ 16 := v.isLt
  simp only [hi8, lo8, BitVec.extractLsb'_toNat, Nat.shiftRight_eq_div_pow]
  omega

/-- The burst when both of its TEXT bytes have been written (R132). -/
theorem psBurst_of_read (p : Params) {text : Memory} (varb stereo : Bool) (pty : BitVec 5) {seg : BitVec 4} {t0 t1 : Byte}
    (h0 : text.read (2 * seg.toNat) = some t0) (h1 : text.read (2 * seg.toNat + 1) = some t1) :
    psBurst p text varb stereo pty seg =
      some #v[hi8 p.pi, lo8 p.pi, hi8 (gwPs p varb stereo pty seg), lo8 (gwPs p varb stereo pty seg),
        (psBlockC p varb seg).1, (psBlockC p varb seg).2, t0, t1] := by
  simp only [psBurst, h0, h1]

/-- Variant B repeats PI (R132). -/
theorem psBlockC_variantB (p : Params) (seg : BitVec 4) : psBlockC p true seg = (hi8 p.pi, lo8 p.pi) := rfl

/-- An index below 8 loses nothing in the 3 bits of an AF index (R50). -/
theorem afByte_ofNat (p : Params) {i : Nat} (hi : i < 8) : afByte p (BitVec.ofNat 3 i) = p.af[i] := by
  simp only [afByte, BitVec.toNat_ofNat, Nat.mod_eq_of_lt (show i < 2 ^ 3 from hi)]

/-- The segment number of a PS burst is not cut. -/
theorem toNat_ofNat_psSeg {k : Nat} (hk : k < 4) : (BitVec.ofNat 4 k).toNat = k :=
  Nat.mod_eq_of_lt (by omega)

/-- Variant A sends two AF bytes, whose indices stay in AF (R132). -/
theorem psBlockC_variantA (p : Params) {k : Nat} (hk : k < 4) :
    psBlockC p false (BitVec.ofNat 4 k) = (p.af[2 * k], p.af[2 * k + 1]) := by
  have h0 : 2 * k < 8 := by omega
  have h1 : 2 * k + 1 < 8 := by omega
  simp only [psBlockC, Bool.false_eq_true, if_false, toNat_ofNat_psSeg hk, afByte_ofNat p h0, afByte_ofNat p h1]

/-- Settles O24: by the burst with its TEXT bytes written, the two words of it put together again, and block C in each variant. -/
theorem psBurstBytes : Obligations.PsBurstBytes := by
  intro p text varb stereo pty k hk t0 t1 h0 h1
  rw [← toNat_ofNat_psSeg hk] at h0 h1
  refine ⟨_, psBurst_of_read p varb stereo pty h0 h1, hi8_lo8_toNat _, hi8_lo8_toNat _, fun hB => ?_, fun hA => ?_, rfl, rfl⟩
  · subst hB
    rw [psBlockC_variantB]
    exact ⟨rfl, rfl⟩
  · subst hA
    rw [psBlockC_variantA p hk]
    exact ⟨rfl, rfl⟩

end Sys2Proof.Machine

/-! SUPPORT. The bytes of an RT burst: the burst when its TEXT bytes were written (R152). -/

namespace Sys2Proof.Machine

/-- The burst when all four of its TEXT bytes have been written (R152). -/
theorem rtBurst_of_read (p : Params) {text : Memory} (ab : Bool) (pty : BitVec 5) {seg : BitVec 4} {t0 t1 t2 t3 : Byte}
    (h0 : text.read (4 * seg.toNat) = some t0) (h1 : text.read (4 * seg.toNat + 1) = some t1)
    (h2 : text.read (4 * seg.toNat + 2) = some t2) (h3 : text.read (4 * seg.toNat + 3) = some t3) :
    rtBurst p text ab pty seg =
      some #v[hi8 p.pi, lo8 p.pi, hi8 (gwRt p ab pty seg), lo8 (gwRt p ab pty seg), t0, t1, t2, t3] := by
  simp only [rtBurst, h0, h1, h2, h3]

/-- The segment number of an RT burst is not cut. -/
theorem toNat_ofNat_rtSeg {k : Nat} (hk : k < 16) : (BitVec.ofNat 4 k).toNat = k :=
  Nat.mod_eq_of_lt hk

/-- Settles O25: by the burst with its TEXT bytes written, and its PI and group word put together again. -/
theorem rtBurstBytes : Obligations.RtBurstBytes := by
  intro p text ab pty k hk t0 t1 t2 t3 h0 h1 h2 h3
  rw [← toNat_ofNat_rtSeg hk] at h0 h1 h2 h3
  exact ⟨_, rtBurst_of_read p ab pty h0 h1 h2 h3, hi8_lo8_toNat _, hi8_lo8_toNat _, rfl, rfl, rfl, rfl⟩

end Sys2Proof.Machine

/-! SUPPORT. The two ways the command port turns a word away, and the step that presents such a word (R201, R202). -/

namespace Sys2Proof.Machine

/-- While a send runs the port does not decode the word (R202). -/
theorem presentWord_busy (w : Word) {s : State} (hp : s.phase ≠ .idle) :
    presentWord w s = .next (s.reject w .busyReject) := by
  rw [presentWord, if_neg hp]

theorem presentWord_illegal {w : Word} {s : State} {e : Illegal} (hp : s.phase = .idle) (hd : decode w = .error e) :
    presentWord w s = .next (s.reject w .illegalCmd) := by
  rw [presentWord, if_pos hp, hd]

theorem step_command (s : State) (w : Word) (rest : List Input) (h : s.inputs = .command w :: rest) :
    step s = presentWord w { s with inputs := rest } :=
  step_cons s _ rest h

/-- Settles O11: the port is not in IDLE once the word is taken either, so it rejects the word with code 2 before any decoding. -/
theorem busyWordRejected : Obligations.BusyWordRejected := by
  intro s w rest h hp
  have hp' : ({ s with inputs := rest } : State).phase ≠ .idle := hp
  rw [step_command s w rest h, presentWord_busy w hp', State.reject_eq]
  rfl

/-- Settles O12: in IDLE the port decodes the word, and the decoder's error becomes a rejection with code 1. -/
theorem illegalWordRejected : Obligations.IllegalWordRejected := by
  intro s w e rest h hp hd
  have hp' : ({ s with inputs := rest } : State).phase = .idle := hp
  rw [step_command s w rest h, presentWord_illegal hp' hd, State.reject_eq]
  rfl

end Sys2Proof.Machine

/-! SUPPORT. The decoder and the encoder as inverses of each other, and both as arithmetic on the word (R70 to R74, R85). -/

namespace Sys2Proof

/-! ### Decoding and encoding -/

/-- Settles O1: each field of a command's word reads as the operand, or the zero, that the encoder put there. -/
theorem decodeEncodeRoundTrip : Obligations.DecodeEncodeRoundTrip := by
  intro i
  cases i <;>
    simp [decode, encode, opField_packWord, f0Field_packWord, f1Field_packWord, rsv0Field_packWord, arg8Field_packWord,
      idxField_packWord, rsv1Field_packWord]

/-- What a word that decodes looks like: its reserved fields are 0, and its other fields are those of one command. -/
theorem fields_of_decode {w : Word} {i : Instr} (h : decode w = .ok i) :
    rsv0Field w = 0#2 ∧ rsv1Field w = 0#10 ∧
      encode i = packWord (idxField w) (arg8Field w) (f1Field w) (f0Field w) (opField w) := by
  unfold decode at h
  split_ifs at h with hrsv hop hz hop hz hop hz hop hz hop hz <;> cases h
  all_goals
    obtain ⟨hrsv0, hrsv1⟩ := not_or.mp hrsv
    refine ⟨not_not.mp hrsv0, not_not.mp hrsv1, ?_⟩
    simp only [not_or, not_not, Bool.not_eq_true] at hz
    simp [encode, hop, hz]

/-- Settles O2: a word whose reserved fields are 0 is the word of its fields. -/
theorem encodeDecodeRoundTrip : Obligations.EncodeDecodeRoundTrip := by
  intro w i h
  obtain ⟨hrsv0, hrsv1, he⟩ := fields_of_decode h
  rw [he, packWord_fields w hrsv0 hrsv1]

/-- Decoding is reading backwards what the encoder writes. -/
theorem decode_eq_ok_iff {w : Word} {i : Instr} : decode w = .ok i ↔ encode i = w :=
  ⟨encodeDecodeRoundTrip w i, fun h => h ▸ decodeEncodeRoundTrip i⟩

/-! ### The word as a number -/

/-- The fields of R70 do not overlap, so the word is the sum of its fields at their positions. -/
theorem packWord_toNat (idx : BitVec 6) (arg8 : Byte) (f1 f0 : Bool) (op : BitVec 4) :
    (packWord idx arg8 f1 f0 op).toNat =
      65536 * idx.toNat + 256 * arg8.toNat + 32 * f1.toNat + 16 * f0.toNat + op.toNat := by
  have hop := opField_toNat (packWord idx arg8 f1 f0 op)
  have hf0 := f0Field_toNat (packWord idx arg8 f1 f0 op)
  have hf1 := f1Field_toNat (packWord idx arg8 f1 f0 op)
  have hrsv0 := rsv0Field_toNat (packWord idx arg8 f1 f0 op)
  have harg8 := arg8Field_toNat (packWord idx arg8 f1 f0 op)
  have hidx := idxField_toNat (packWord idx arg8 f1 f0 op)
  have hrsv1 := rsv1Field_toNat (packWord idx arg8 f1 f0 op)
  rw [opField_packWord] at hop
  rw [f0Field_packWord] at hf0
  rw [f1Field_packWord] at hf1
  rw [rsv0Field_packWord, BitVec.toNat_ofNat] at hrsv0
  rw [arg8Field_packWord] at harg8
  rw [idxField_packWord] at hidx
  rw [rsv1Field_packWord, BitVec.toNat_ofNat] at hrsv1
  omega

/-- Decoding in arithmetic: the word's value is that of the command's word. -/
theorem decode_eq_ok_iff_toNat {w : Word} {i : Instr} : decode w = .ok i ↔ (encode i).toNat = w.toNat := by
  rw [decode_eq_ok_iff, BitVec.toNat_inj]

/-- Settles O3: each command's word is a sum of its fields, which division and remainder read off again. -/
theorem decoderReadsFields : Obligations.DecoderReadsFields := by
  intro w
  simp only [decode_eq_ok_iff_toNat, encode, packWord_toNat, BitVec.toNat_ofNat, Bool.toNat_false]
  refine ⟨fun pty vb st => ?_, fun pty ab => ?_, fun rst => ?_, fun rst => ?_, fun idx byte => ?_⟩
  · have := pty.isLt
    have := vb.toNat_lt
    have := st.toNat_lt
    omega
  · have := pty.isLt
    have := ab.toNat_lt
    omega
  · have := rst.toNat_lt
    omega
  · have := rst.toNat_lt
    omega
  · have := idx.isLt
    have := byte.isLt
    omega

end Sys2Proof

/-! SUPPORT. The opcode table in the terms of the fields (R74, R84), and the written form of every command (R85). -/

namespace Sys2Proof

/-! ### The opcode table -/

/-- A word is the word of R85 for given fields exactly if its own fields are these and its reserved bits are 0. -/
theorem packWord_eq_iff {idx : BitVec 6} {arg8 : Byte} {f1 f0 : Bool} {op : BitVec 4} {w : Word} :
    packWord idx arg8 f1 f0 op = w ↔ rsv0Field w = 0#2 ∧ rsv1Field w = 0#10 ∧ opField w = op ∧ f0Field w = f0 ∧
      f1Field w = f1 ∧ arg8Field w = arg8 ∧ idxField w = idx := by
  constructor
  · rintro rfl
    exact ⟨rsv0Field_packWord .., rsv1Field_packWord .., opField_packWord .., f0Field_packWord .., f1Field_packWord ..,
      arg8Field_packWord .., idxField_packWord ..⟩
  · rintro ⟨hrsv0, hrsv1, rfl, rfl, rfl, rfl, rfl⟩
    exact packWord_fields w hrsv0 hrsv1

section
variable (w m : Word)

theorem opField_and : opField (w &&& m) = opField w &&& opField m := BitVec.extractLsb'_and
theorem f0Field_and : f0Field (w &&& m) = (f0Field w && f0Field m) := BitVec.getLsbD_and
theorem f1Field_and : f1Field (w &&& m) = (f1Field w && f1Field m) := BitVec.getLsbD_and
theorem rsv0Field_and : rsv0Field (w &&& m) = rsv0Field w &&& rsv0Field m := BitVec.extractLsb'_and
theorem arg8Field_and : arg8Field (w &&& m) = arg8Field w &&& arg8Field m := BitVec.extractLsb'_and
theorem idxField_and : idxField (w &&& m) = idxField w &&& idxField m := BitVec.extractLsb'_and
theorem rsv1Field_and : rsv1Field (w &&& m) = rsv1Field w &&& rsv1Field m := BitVec.extractLsb'_and

end

/-- A row of the table, read field by field: its mask covers the opcode, the reserved fields, and those of `F0`, `F1`, `ARG8` and
`IDX` that R72 marks "0" for its command; the covered fields are 0 in the pattern. -/
structure OpcodeRow.Covers (r : OpcodeRow) (op : BitVec 4) (f0 f1 arg8 idx : Bool) : Prop where
  rsv0_mask : rsv0Field r.mask = BitVec.allOnes 2
  rsv1_mask : rsv1Field r.mask = BitVec.allOnes 10
  op_mask : opField r.mask = BitVec.allOnes 4
  f0_mask : f0Field r.mask = f0
  f1_mask : f1Field r.mask = f1
  arg8_mask : arg8Field r.mask = if arg8 then BitVec.allOnes 8 else 0#8
  idx_mask : idxField r.mask = if idx then BitVec.allOnes 6 else 0#6
  pattern_eq : r.pattern = packWord 0#6 0#8 false false op

/-- A field under a mask that covers it or not. -/
theorem and_cover_eq_zero_iff {n : Nat} (x : BitVec n) (c : Bool) :
    x &&& (if c then BitVec.allOnes n else 0#n) = 0#n ↔ (c = true → x = 0#n) := by
  cases c
  · simp only [Bool.false_eq_true, if_false, BitVec.and_zero, false_imp_iff]
  · simp only [if_true, BitVec.and_allOnes, true_imp_iff]

/-- Matching a row is having its opcode, and 0 in the fields it covers (R74). -/
theorem OpcodeRow.Covers.matches_iff {r : OpcodeRow} {op : BitVec 4} {f0 f1 arg8 idx : Bool}
    (h : r.Covers op f0 f1 arg8 idx) (w : Word) :
    r.Matches w ↔ rsv0Field w = 0#2 ∧ rsv1Field w = 0#10 ∧ opField w = op ∧ (f0 = true → f0Field w = false) ∧
      (f1 = true → f1Field w = false) ∧ (arg8 = true → arg8Field w = 0#8) ∧ (idx = true → idxField w = 0#6) := by
  have bit (b c : Bool) : (b && c) = false ↔ (c = true → b = false) := by cases c <;> simp
  rw [OpcodeRow.Matches, h.pattern_eq, eq_comm, packWord_eq_iff, opField_and, f0Field_and, f1Field_and, rsv0Field_and,
    arg8Field_and, idxField_and, rsv1Field_and, h.rsv0_mask, h.rsv1_mask, h.op_mask, h.f0_mask, h.f1_mask, h.arg8_mask,
    h.idx_mask]
  simp only [BitVec.and_allOnes, and_cover_eq_zero_iff, bit]

section
variable (i : Instr)

theorem mnemonic_eq_sendps_iff : i.mnemonic = "SENDPS" ↔ ∃ pty vb st, i = .sendps pty vb st := by
  cases i <;> simp [Instr.mnemonic]

theorem mnemonic_eq_sendrt_iff : i.mnemonic = "SENDRT" ↔ ∃ pty ab, i = .sendrt pty ab := by
  cases i <;> simp [Instr.mnemonic]

theorem mnemonic_eq_getps_iff : i.mnemonic = "GETPS" ↔ ∃ rst, i = .getps rst := by
  cases i <;> simp [Instr.mnemonic]

theorem mnemonic_eq_getrt_iff : i.mnemonic = "GETRT" ↔ ∃ rst, i = .getrt rst := by
  cases i <;> simp [Instr.mnemonic]

theorem mnemonic_eq_ldtxt_iff : i.mnemonic = "LDTXT" ↔ ∃ idx byte, i = .ldtxt idx byte := by
  cases i <;> simp [Instr.mnemonic]

end

/-- Row by row: the fields a row covers are those its command's word has 0 in, and the other fields are the command's operands. -/
theorem matches_iff_decode (w : Word) :
    ∀ r ∈ opcodeTable, r.Matches w ↔ ∃ i, decode w = .ok i ∧ i.mnemonic = r.mnemonic := by
  have sendps : OpcodeRow.Covers ⟨"SENDPS", 0x00000001#32, 0xFFFF00CF#32⟩ 0x1#4 false false false true := by
    constructor <;> decide
  have sendrt : OpcodeRow.Covers ⟨"SENDRT", 0x00000002#32, 0xFFFF00EF#32⟩ 0x2#4 false true false true := by
    constructor <;> decide
  have getps : OpcodeRow.Covers ⟨"GETPS", 0x00000003#32, 0xFFFFFFEF#32⟩ 0x3#4 false true true true := by
    constructor <;> decide
  have getrt : OpcodeRow.Covers ⟨"GETRT", 0x00000004#32, 0xFFFFFFEF#32⟩ 0x4#4 false true true true := by
    constructor <;> decide
  have ldtxt : OpcodeRow.Covers ⟨"LDTXT", 0x00000005#32, 0xFFC000FF#32⟩ 0x5#4 true true false false := by
    constructor <;> decide
  simp only [opcodeTable, List.forall_mem_cons, decode_eq_ok_iff]
  refine ⟨?_, ?_, ?_, ?_, ?_, by simp⟩
  · simp [-Bool.exists_bool, sendps.matches_iff, mnemonic_eq_sendps_iff, encode, packWord_eq_iff]
  · simp [-Bool.exists_bool, sendrt.matches_iff, mnemonic_eq_sendrt_iff, encode, packWord_eq_iff]
  · simp [-Bool.exists_bool, getps.matches_iff, mnemonic_eq_getps_iff, encode, packWord_eq_iff]
  · simp [-Bool.exists_bool, getrt.matches_iff, mnemonic_eq_getrt_iff, encode, packWord_eq_iff]
  · simp [-Bool.exists_bool, ldtxt.matches_iff, mnemonic_eq_ldtxt_iff, encode, packWord_eq_iff]

/-- Every command has a row (R84). -/
theorem exists_row (i : Instr) : ∃ r ∈ opcodeTable, i.mnemonic = r.mnemonic := by
  cases i <;> simp [opcodeTable, Instr.mnemonic]

/-- Settles O4: row by row, and since every command has a row, no row is matched exactly when no command is decoded. -/
theorem tableRowsAreTheDecoder : Obligations.TableRowsAreTheDecoder := by
  intro w
  refine ⟨matches_iff_decode w, fun ⟨e, he⟩ r hr hm => ?_, fun hnone => ?_⟩
  · obtain ⟨i, hi, -⟩ := (matches_iff_decode w r hr).mp hm
    rw [he] at hi
    cases hi
  · cases hd : decode w with
    | error e => exact ⟨e, rfl⟩
    | ok i =>
      obtain ⟨r, hr, hi⟩ := exists_row i
      exact absurd ((matches_iff_decode w r hr).mpr ⟨i, hd, hi⟩) (hnone r hr)

/-- The mnemonics of the table are distinct (R84). -/
theorem row_eq_of_mnemonic_eq : ∀ r₁ ∈ opcodeTable, ∀ r₂ ∈ opcodeTable, r₁.mnemonic = r₂.mnemonic → r₁ = r₂ := by
  decide

/-- Settles O5: both rows have the mnemonic of the one command that the word decodes to. -/
theorem tableRowsDisjoint : Obligations.TableRowsDisjoint := by
  intro w r₁ r₂ hr₁ hr₂ hm₁ hm₂
  obtain ⟨i, hi, h₁⟩ := (matches_iff_decode w r₁ hr₁).mp hm₁
  obtain ⟨j, hj, h₂⟩ := (matches_iff_decode w r₂ hr₂).mp hm₂
  obtain rfl : i = j := by rw [hi] at hj; cases hj; rfl
  exact row_eq_of_mnemonic_eq r₁ hr₁ r₂ hr₂ (h₁.symm.trans h₂)

/-! ### The written form -/

/-- No ill-formed command can be built: its operands have the widths of their fields (R85). -/
theorem toStmt_check (i : Instr) : i.toStmt.check = true := by
  cases i with
  | sendps pty vb st => exact Laws.WellFormed.sendps pty vb st
  | sendrt pty ab => exact Laws.WellFormed.sendrt pty ab
  | getps rst => exact Laws.WellFormed.getps rst
  | getrt rst => exact Laws.WellFormed.getrt rst
  | ldtxt idx byte => exact Laws.WellFormed.ldtxt idx byte

/-- A field written as its number is read back at the field's width. -/
theorem bits_num_toNat {n : Nat} (v : BitVec n) : (Literal.num v.toNat).bits n = v := by
  simp [Literal.bits, Literal.value]

theorem flag_num_toNat (b : Bool) : (Literal.num b.toNat).flag = b := by
  cases b <;> rfl

theorem expand_toStmt (i : Instr) : i.toStmt.expand = [i] := by
  cases i <;> simp only [Instr.toStmt, Stmt.expand, bits_num_toNat, flag_num_toNat]

/-- Settles O8: the written form passes the checks and stands for the command itself. -/
theorem assembleWrittenForm : Obligations.AssembleWrittenForm := by
  intro i
  rw [assemble_of_check (toStmt_check i), expand_toStmt]
  rfl

end Sys2Proof

/-! SUPPORT. The command port when the word decodes (R100), STATUS as the host reads it (R29), and each accepted command exactly
(R102, R170 to R174). -/

namespace Sys2Proof.Machine
open Sys2Proof.Safety

/-! ### Presenting a command -/

/-- In every phase the port runs a word that decodes as its command: the busy check of the port is that of the command. -/
theorem presentWord_of_decode {w : Word} {i : Instr} (hd : decode w = .ok i) (s : State) : presentWord w s = exec i s := by
  by_cases hp : s.phase = .idle
  · rw [presentWord, if_pos hp, hd]
  · rw [presentWord_busy w hp, exec_busy i s hp, decode_eq_ok_iff.mp hd]

/-- A 32-bit word placed by its number is the word (R78). -/
theorem wordOfBits_toNat (w : Word) : wordOfBits 32 w.toNat = w := by
  rw [wordOfBits, Nat.mod_eq_of_lt w.isLt, BitVec.ofNat_toNat, BitVec.setWidth_eq]

/-- Settles O10: by the step for a word on the port, which runs the command the word decodes to. -/
theorem stepRunsDecodedCommand : Obligations.StepRunsDecodedCommand := by
  intro s w i hd
  refine ⟨fun rest h => ?_, ?_⟩
  · rw [step_command s w rest h, presentWord_of_decode hd]
  · have h : (s.withFetchWord 32 w.toNat).inputs = .command w :: s.inputs := by
      rw [State.withFetchWord, wordOfBits_toNat]
    rw [step_command _ w _ h, presentWord_of_decode hd]
    rfl

/-- Settles O13: the rejection, as the record it gives. -/
theorem busyCommandChangesOnlyErr : Obligations.BusyCommandChangesOnlyErr := by
  intro i s hp
  rw [exec_busy i s hp, State.reject_eq]
  rfl

/-! ### STATUS -/

theorem packStatus_toNat (b : Bool) (e : BitVec 3) : (packStatus b e).toNat = b.toNat + 2 * e.toNat := by
  revert b e; decide

/-- Settles O14: the reserved bits are 0 by the invariant, so STATUS is its two fields, which the invariant bounds. -/
theorem statusRegisterFields : Obligations.StatusRegisterFields := by
  intro s h
  have hbusy : s.busy.toNat = if s.phase = .idle then 0 else 1 := by
    by_cases hp : s.phase = .idle
    · simp [hp, mt h.busy_iff.mp (not_not.mpr hp)]
    · simp [hp, h.busy_iff.mpr hp]
  refine ⟨packStatus_of_reserved s.status h.reserved, ?_, h.err_range⟩
  rw [State.statusPort, packStatus_toNat, hbusy]

/-! ### Each command in IDLE -/

theorem accepted_trace (i : Instr) (s : State) : (accepted i s).trace = s.trace ++ [.accept (encode i)] := by
  cases i <;> rfl

/-- The 5-bit truncation of R75 in arithmetic. -/
theorem ptyOf_eq_mod (pty : Byte) : ptyOf pty = BitVec.ofNat 5 (pty.toNat % 32) := by
  apply BitVec.eq_of_toNat_eq
  simp [ptyOf]

/-- Settles O15: the acceptance, then the start of the send, as records. -/
theorem sendCommandsStart : Obligations.SendCommandsStart := by
  intro s hp pty vb st ab
  simp only [exec_idle _ s hp, accepted, startSend_eq, State.accept_eq, State.err, statusErr_packStatus, ptyOf_eq_mod,
    and_self]

/-- Settles O16: both are the acceptance as a record. -/
theorem getCommandsReadAndClear : Obligations.GetCommandsReadAndClear := by
  intro s hp rst
  exact ⟨exec_idle _ s hp, exec_idle _ s hp⟩

/-- Settles O17: a GET leaves the block in IDLE, so the second one is accepted too. -/
theorem readAfterClearingReadIsZero : Obligations.ReadAfterClearingReadIsZero := by
  intro s hp rst
  constructor
  · exact ⟨_, _, exec_idle _ s hp, exec_idle _ _ hp, rfl, rfl, ite_self 0, rfl⟩
  · exact ⟨_, _, exec_idle _ s hp, exec_idle _ _ hp, rfl, rfl, ite_self 0, rfl⟩

/-- Settles O18: the one write to TEXT, of which `Memory.read_write` says what a read gives. -/
theorem loadTextWritesOneByte : Obligations.LoadTextWritesOneByte := by
  intro s idx byte hp
  refine ⟨_, exec_idle _ s hp, ?_, fun a ha => ?_, Memory.wf_write s.text idx byte, rfl⟩
  · exact (Memory.read_write s.text idx.toNat byte idx.toNat).trans (if_pos rfl)
  · exact (Memory.read_write s.text idx.toNat byte a).trans (if_neg ha)

/-- Settles O41: the reset state is in IDLE, where every command's word is accepted. -/
theorem resetStateAcceptsCommand : Obligations.ResetStateAcceptsCommand := by
  refine ⟨rfl, rfl, rfl, rfl, rfl, rfl, rfl, fun i => ⟨accepted i State.reset, ?_, accepted_trace i State.reset⟩⟩
  obtain ⟨-, hfetch⟩ := stepRunsDecodedCommand State.reset (encode i) i (decodeEncodeRoundTrip i)
  rw [hfetch, exec_idle i State.reset rfl]

end Sys2Proof.Machine

/-! SUPPORT. The group words as numbers and bit by bit (R79, R80, R131, R133, R151, R153). -/

namespace Sys2Proof.Machine

/-- PTY has bits 9:5 to itself, so it adds to a word that has none of them (R79). -/
theorem or_atPos_pty_toNat (c : Half) (pty : BitVec 5) (hc : c &&& 0x03E0#16 = 0#16) :
    (c ||| atPos pty posPTY).toNat = c.toNat + 32 * pty.toNat := by
  have hpty : (atPos pty posPTY).toNat = 32 * pty.toNat ∧ atPos pty posPTY &&& 0x03E0#16 = atPos pty posPTY := by
    revert pty; decide
  obtain ⟨hval, hin⟩ := hpty
  have hdisjoint : c &&& atPos pty posPTY = 0#16 := by
    rw [← hin, BitVec.and_comm (atPos pty posPTY), ← BitVec.and_assoc, hc, BitVec.zero_and]
  rw [← BitVec.add_eq_or_of_and_eq_zero _ _ hdisjoint, BitVec.toNat_add_of_and_eq_zero hdisjoint, hval]

/-- The PS group word without PTY: the template, the stereo bit and the segment (R131). -/
def psFlags (p : Params) (varb di : Bool) (seg : BitVec 4) : Half :=
  (if varb then tmpl0B p else tmpl0A p) ||| bitAt di posDI ||| (seg.extractLsb' 0 2).setWidth 16

/-- The RT group word without PTY: the template, the text A/B bit and the segment (R151). -/
def rtFlags (p : Params) (ab : Bool) (seg : BitVec 4) : Half := tmpl2A p ||| bitAt ab posAB ||| seg.setWidth 16

theorem gwPs_eq_flags_or_pty (p : Params) (varb stereo : Bool) (pty : BitVec 5) (seg : BitVec 4) :
    gwPs p varb stereo pty seg = psFlags p varb (decide (seg = 3#4) && stereo) seg ||| atPos pty posPTY := by
  simp only [gwPs, psFlags]
  ac_rfl

theorem gwRt_eq_flags_or_pty (p : Params) (ab : Bool) (pty : BitVec 5) (seg : BitVec 4) :
    gwRt p ab pty seg = rtFlags p ab seg ||| atPos pty posPTY := by
  simp only [gwRt, rtFlags]
  ac_rfl

/-- None of the flags is in PTY's field, and their positions are those of R79. -/
theorem psFlags_value (p : Params) (varb di : Bool) {k : Nat} (hk : k < 4) :
    psFlags p varb di (BitVec.ofNat 4 k) &&& 0x03E0#16 = 0#16 ∧
      (psFlags p varb di (BitVec.ofNat 4 k)).toNat =
        2048 * varb.toNat + 1024 * p.tp.toNat + 16 * p.ta.toNat + 8 * p.ms.toNat + 4 * di.toNat + k := by
  unfold psFlags tmpl0B tmpl0A
  generalize p.tp = tp, p.ta = ta, p.ms = ms
  revert tp ta ms varb di k
  decide

theorem rtFlags_value (p : Params) (ab : Bool) (seg : BitVec 4) :
    rtFlags p ab seg &&& 0x03E0#16 = 0#16 ∧
      (rtFlags p ab seg).toNat = 8192 + 1024 * p.tp.toNat + 16 * ab.toNat + seg.toNat := by
  unfold rtFlags tmpl2A
  generalize p.tp = tp
  revert tp ab seg
  decide

/-- Settles O19: by the flags as a number, to which PTY is added. -/
theorem psGroupWordLayout : Obligations.PsGroupWordLayout := by
  intro p varb stereo pty k hk
  obtain ⟨hfree, hflags⟩ := psFlags_value p varb (decide (BitVec.ofNat 4 k = 3#4) && stereo) hk
  have hseg : BitVec.ofNat 4 k = 3#4 ↔ k = 3 := by
    rw [← BitVec.toNat_inj, toNat_ofNat_psSeg hk]
    rfl
  have hdi : (decide (BitVec.ofNat 4 k = 3#4) && stereo).toNat = if k = 3 ∧ stereo = true then 1 else 0 := by
    by_cases h : k = 3 <;> cases stereo <;> simp [hseg, h]
  rw [gwPs_eq_flags_or_pty, or_atPos_pty_toNat _ pty hfree, hflags, hdi]
  omega

/-- Settles O20: by the flags as a number, to which PTY is added. -/
theorem rtGroupWordLayout : Obligations.RtGroupWordLayout := by
  intro p ab pty seg
  obtain ⟨hfree, hflags⟩ := rtFlags_value p ab seg
  rw [gwRt_eq_flags_or_pty, or_atPos_pty_toNat _ pty hfree, hflags]
  omega

/-- Settles O21: in each of the eight combinations of TP, TA and MS. -/
theorem templatesDifferInVersionBit : Obligations.TemplatesDifferInVersionBit := by
  intro p
  unfold tmpl0B tmpl0A
  generalize p.tp = tp, p.ta = ta, p.ms = ms
  revert tp ta ms
  decide

/-- Settles O22: bit 2 of every other field is 0. -/
theorem stereoBitOnlyInLastSegment : Obligations.StereoBitOnlyInLastSegment := by
  intro p varb stereo pty seg
  have htmpl : (if varb then tmpl0B p else tmpl0A p)[2] = false := by
    cases varb <;> simp [tmpl0B, tmpl0A, bitAt, atPos, posTP, posTA, posMS, posVersion]
  simp [gwPs, htmpl, bitAt, atPos, posPTY, posDI]

/-- Settles O23: bit 4 of every other field is 0. -/
theorem textAbBitInEverySegment : Obligations.TextAbBitInEverySegment := by
  intro p ab pty seg
  simp [gwRt, tmpl2A, bitAt, atPos, posGroupType, posTP, posPTY, posAB]

end Sys2Proof.Machine

/-! SUPPORT. What a burst that exists says of its TEXT bytes (R132, R152, R216 (a)), and the bytes of a whole cycle in order (R134,
R135, R154). -/

namespace Sys2Proof.Machine

/-! ### Bursts that exist -/

/-- A PS burst needs both of its TEXT bytes (R132). -/
theorem psBurst_eq_some {p : Params} {text : Memory} {varb stereo : Bool} {pty : BitVec 5} {seg : BitVec 4}
    {b : Vector Byte 8} (h : psBurst p text varb stereo pty seg = some b) :
    (b[4] = (psBlockC p varb seg).1 ∧ b[5] = (psBlockC p varb seg).2) ∧
      text.read (2 * seg.toNat) = some b[6] ∧ text.read (2 * seg.toNat + 1) = some b[7] := by
  unfold psBurst at h
  split at h
  next t0 t1 h0 h1 =>
    cases h
    exact ⟨⟨rfl, rfl⟩, h0, h1⟩
  next => cases h

/-- An RT burst needs all four of its TEXT bytes (R152). -/
theorem rtBurst_eq_some {p : Params} {text : Memory} {ab : Bool} {pty : BitVec 5} {seg : BitVec 4} {b : Vector Byte 8}
    (h : rtBurst p text ab pty seg = some b) :
    text.read (4 * seg.toNat) = some b[4] ∧ text.read (4 * seg.toNat + 1) = some b[5] ∧
      text.read (4 * seg.toNat + 2) = some b[6] ∧ text.read (4 * seg.toNat + 3) = some b[7] := by
  unfold rtBurst at h
  split at h
  next t0 t1 t2 t3 h0 h1 h2 h3 =>
    cases h
    exact ⟨h0, h1, h2, h3⟩
  next => cases h

/-! ### Whole cycles -/

/-- Segment after segment, `m` values each, gives the values in order. -/
theorem flatMap_range_chunks {α : Type} (f : Nat → α) (m n : Nat) :
    (List.range n).flatMap (fun k => (List.range m).map fun j => f (m * k + j)) = (List.range (m * n)).map f := by
  induction n with
  | zero => rfl
  | succ n ih =>
    rw [List.range_succ, List.flatMap_append, ih, Nat.mul_succ, List.range_add, List.map_append, List.map_map]
    simp

/-- The AF bytes by their 3-bit indices are AF (R50). -/
theorem map_afByte_eq_toList (p : Params) : (List.range 8).map (fun i => afByte p (BitVec.ofNat 3 i)) = p.af.toList := by
  apply List.ext_getElem
  · simp
  · intro i hi _
    have hi8 : i < 8 := by simpa using hi
    simp [afByte_ofNat p hi8]

/-- Settles O26: segment `k` sends the AF bytes of indices `2k` and `2k + 1`. -/
theorem psCycleSendsAfInOrder : Obligations.PsCycleSendsAfInOrder := by
  intro p text stereo pty burst hb
  rw [← map_afByte_eq_toList, ← flatMap_range_chunks _ 2 4]
  refine List.flatMap_congr fun k hk => ?_
  have hk4 := List.mem_range.mp hk
  obtain ⟨⟨h4, h5⟩, -⟩ := psBurst_eq_some (hb k hk4)
  rw [h4, h5, psBlockC, toNat_ofNat_psSeg hk4]
  rfl

/-- Settles O27: segment `k` sends the TEXT bytes from `2k` on in a PS cycle, and from `4k` on in an RT cycle. -/
theorem cyclesSendTextInOrder : Obligations.CyclesSendTextInOrder := by
  constructor
  · intro p text varb stereo pty burst hb
    rw [← flatMap_range_chunks text.read 2 4]
    refine List.flatMap_congr fun k hk => ?_
    have hk4 := List.mem_range.mp hk
    obtain ⟨-, h6, h7⟩ := psBurst_eq_some (hb k hk4)
    rw [toNat_ofNat_psSeg hk4] at h6 h7
    rw [← h6, ← h7]
    rfl
  · intro p text ab pty burst hb
    rw [← flatMap_range_chunks text.read 4 16]
    refine List.flatMap_congr fun k hk => ?_
    have hk16 := List.mem_range.mp hk
    obtain ⟨h4, h5, h6, h7⟩ := rtBurst_eq_some (hb k hk16)
    rw [toNat_ofNat_rtSeg hk16] at h4 h5 h6 h7
    rw [← h4, ← h5, ← h6, ← h7]
    rfl

end Sys2Proof.Machine

/-! SUPPORT. Which data of the block a step can change (R24 to R27, R33, R39 (d) and (e), R63), and what it can add to the
trace (R53, R207). -/

namespace Sys2Proof.Safety
open Sys2Proof.Machine

variable {s s' : State}

/-! ### The block's data -/

/-- Nothing but STATUS, the sequencer's registers `PHASE`, `SEG`, RB3 and BURST, and the model's own fields may differ. -/
def KeepsData (s s' : State) : Prop :=
  s' = { s with status := s'.status, phase := s'.phase, seg := s'.seg, rb3 := s'.rb3, burst := s'.burst,
                inputs := s'.inputs, trace := s'.trace }

theorem keepsData_readStep (ack : Ack) (rb : Vector Byte 7) (s : State) : KeepsData s (readStep ack rb s) := by
  cases ack with
  | ok => rw [readStep_ok]; rfl
  | fail => rw [readStep_fail]; rfl

theorem keepsData_burstStep {ack : Ack} (h : burstStep ack s = .next s') : KeepsData s s' := by
  obtain ⟨b, -, ⟨-, rfl⟩ | ⟨-, rfl⟩⟩ := burstStep_next h <;> rfl

theorem keepsData_toggleStep (ack : Ack) (s : State) : KeepsData s (toggleStep ack s) := by
  cases ack with
  | ok => rw [toggleStep_ok]; rfl
  | fail => rw [toggleStep_fail]; rfl

/-- What a step does to the block's data. -/
inductive DataCase (s s' : State) : Prop where
  | keeps (h : KeepsData s s')
  /-- The end of a PS send counts it (R108). -/
  | completesPs (hp : s.phase = .wait) (hm : s.mode = .ps) (hseg : s.seg = 3#4) (hp' : s'.phase = .idle)
      (h : KeepsData { s with cntPs := (s.cntPs + 1) % 2 ^ s.params.cntW } s')
  /-- The end of an RT send counts it (R108). -/
  | completesRt (hp : s.phase = .wait) (hm : s.mode = .rt) (hseg : s.seg = 15#4) (hp' : s'.phase = .idle)
      (h : KeepsData { s with cntRt := (s.cntRt + 1) % 2 ^ s.params.cntW } s')
  | accepts (i : Instr) (rest : List Input) (hin : s.inputs = .command (encode i) :: rest) (hp : s.phase = .idle)
      (h : s' = accepted i { s with inputs := rest })
  | resets (rest : List Input) (hin : s.inputs = .rst :: rest) (h : s' = ({ s with inputs := rest } : State).resetBlock)

theorem step_dataCase (hs : step s = .next s') : DataCase s s' := by
  cases step_cases hs with
  | noMove _ he => exact he ▸ .keeps rfl
  | ignored _ _ _ _ _ he => exact he ▸ .keeps rfl
  | busyReject _ _ _ _ he => exact he ▸ .keeps rfl
  | illegal _ _ _ _ _ _ he => exact he ▸ .keeps rfl
  | command w rest i hin hp hd he =>
    obtain rfl := decode_eq_ok_iff.mp hd
    exact .accepts i rest hin hp he
  | read ack rb rest _ _ he => exact he ▸ .keeps (keepsData_readStep ack rb { s with inputs := rest })
  | burst _ rest _ _ he => exact .keeps (keepsData_burstStep (s := { s with inputs := rest }) he)
  | toggle ack rest _ _ he => exact he ▸ .keeps (keepsData_toggleStep ack { s with inputs := rest })
  | wait rest _ hp he =>
    obtain ⟨-, hw⟩ | ⟨hm, hseg, hw⟩ | ⟨hm, hseg, hw⟩ := waitStep_cases { s with inputs := rest }
    all_goals
      rw [hw] at he
      subst he
    · exact .keeps rfl
    · exact .completesPs hp hm hseg rfl rfl
    · exact .completesRt hp hm hseg rfl rfl
  | reset rest hin he => exact .resets rest hin he

/-- Settles O44: a counter changes where its send completes, or where a GET of it is accepted with reset, or in a reset. -/
theorem countersChangeOnlyByRule : Obligations.CountersChangeOnlyByRule := by
  intro s s' hs
  cases step_dataCase hs with
  | keeps h => rw [h]; exact ⟨.inl rfl, .inl rfl⟩
  | completesPs hp hm hseg _ h => rw [h]; exact ⟨.inr (.inl ⟨hp, hm, hseg, rfl⟩), .inl rfl⟩
  | completesRt hp hm hseg _ h => rw [h]; exact ⟨.inl rfl, .inr (.inl ⟨hp, hm, hseg, rfl⟩)⟩
  | accepts i rest hin hp h =>
    subst h
    match i, hin with
    | .getps true, hin => exact ⟨.inr (.inr (.inl ⟨hp, rfl, rfl, rest, hin⟩)), .inl rfl⟩
    | .getrt true, hin => exact ⟨.inl rfl, .inr (.inr (.inl ⟨hp, rfl, rfl, rest, hin⟩))⟩
    | .getps false, _ | .getrt false, _ | .sendps .., _ | .sendrt .., _ | .ldtxt .., _ => exact ⟨.inl rfl, .inl rfl⟩
  | resets rest hin h =>
    subst h
    exact ⟨.inr (.inr (.inr ⟨rfl, rest, hin⟩)), .inr (.inr (.inr ⟨rfl, rest, hin⟩))⟩

/-- Settles O45: of what changes data at all, only an accepted LDTXT and a reset write TEXT. -/
theorem textChangesOnlyByLoadText : Obligations.TextChangesOnlyByLoadText := by
  intro s s' hs hne
  cases step_dataCase hs with
  | keeps h => rw [h] at hne; exact absurd rfl hne
  | completesPs _ _ _ _ h => rw [h] at hne; exact absurd rfl hne
  | completesRt _ _ _ _ h => rw [h] at hne; exact absurd rfl hne
  | accepts i rest hin hp h =>
    subst h
    match i, hin with
    | .ldtxt idx byte, hin => exact .inr ⟨hp, idx, byte, rest, hin, rfl⟩
    | .getps _, _ | .getrt _, _ | .sendps .., _ | .sendrt .., _ => exact absurd rfl hne
  | resets rest hin _ => exact .inl ⟨rest, hin⟩

/-- Settles O46: only an accepted send command and a reset write the latches; the one starts in IDLE and the other ends there. -/
theorem latchesAndParametersFixed : Obligations.LatchesAndParametersFixed := by
  intro s s' hs
  cases step_dataCase hs with
  | keeps h => rw [h]; exact ⟨rfl, fun _ _ => ⟨rfl, rfl, rfl, rfl, rfl⟩⟩
  | completesPs _ _ _ hp' h => exact ⟨by rw [h], fun _ hrun => absurd hp' hrun⟩
  | completesRt _ _ _ hp' h => exact ⟨by rw [h], fun _ hrun => absurd hp' hrun⟩
  | accepts i _ _ hp h => exact ⟨by rw [h]; cases i <;> rfl, fun hrun => absurd hp hrun⟩
  | resets _ _ h => subst h; exact ⟨rfl, fun _ hrun => absurd rfl hrun⟩

/-! ### The trace -/

theorem StepEvents.length_le_two {p : Params} {ph : Phase} {es : List Event} (h : StepEvents p ph es) : es.length ≤ 2 := by
  cases h with
  | quiet hlen _ => exact hlen
  | bus _ hlen _ => exact Nat.succ_le_succ hlen

/-- Settles O47: by the events that a step records. -/
theorem traceOnlyGrows : Obligations.TraceOnlyGrows := by
  intro s s' hs
  obtain ⟨es, htrace, hes⟩ := step_records hs
  exact ⟨es, htrace, hes.length_le_two⟩

/-- Only a bus transaction addresses the chip. -/
theorem isBus_of_mem_chipCells {e : Event} {c : Byte × Byte} (h : c ∈ e.chipCells) : isBus e = true := by
  cases e with
  | busWrite => rfl
  | _ => cases h

theorem toList_eq_eight (b : Vector Byte 8) : b.toList = [b[0], b[1], b[2], b[3], b[4], b[5], b[6], b[7]] := by
  apply List.ext_getElem
  · simp
  · intro i hi _
    have hi8 : i < 8 := by simpa using hi
    interval_cases i <;> simp

/-- The device increments the register per byte (R53), so the eight bytes go to `0x10` to `0x17` (R104). -/
theorem chipCells_burst (b : Vector Byte 8) (ack : Ack) :
    (Event.busWrite 0x2B#7 0x10#8 b.toList ack).chipCells =
      [(0x10#8, b[0]), (0x11#8, b[1]), (0x12#8, b[2]), (0x13#8, b[3]),
       (0x14#8, b[4]), (0x15#8, b[5]), (0x16#8, b[6]), (0x17#8, b[7])] := by
  rw [toList_eq_eight]
  rfl

theorem BusKind.chipCells_confined {p : Params} {ph : Phase} {e : Event} (h : BusKind p ph e) {c : Byte × Byte}
    (hc : c ∈ e.chipCells) : (0x10 ≤ c.1.toNat ∧ c.1.toNat ≤ 0x17) ∨ c.1 = p.toggleReg.addr := by
  cases h with
  | read => cases hc
  | burst b ack =>
    have hwindow :
        ∀ c ∈ (Event.busWrite 0x2B#7 0x10#8 b.toList ack).chipCells, 0x10 ≤ c.1.toNat ∧ c.1.toNat ≤ 0x17 := by
      simp [chipCells_burst]
    exact .inl (hwindow c hc)
  | toggle b ack => exact .inr (congrArg Prod.fst (List.mem_singleton.mp hc))

/-- Settles O49: by the kind of the transaction an address comes from, and the cells of a burst. -/
theorem chipWritesConfined : Obligations.ChipWritesConfined := by
  refine ⟨fun s s' hs => ?_, chipCells_burst⟩
  obtain ⟨es, htrace, hes⟩ := step_records hs
  exact ⟨es, htrace, fun e he c hc => (hes.busKind_of_mem he (isBus_of_mem_chipCells hc)).chipCells_confined hc⟩

end Sys2Proof.Safety

/-! SUPPORT. When the sequencer moves and when it is held (R101, R107, R112, R230), what a failed transaction leaves behind (R109),
and where a step stops (R216). -/

namespace Sys2Proof.Safety
open Sys2Proof.Machine

variable {s s' : State}

/-! ### What moves the sequencer -/

/-- While a send runs, PHASE changes only by a reset or in the step of the current phase; what is said of that step is what the
statements below need. -/
inductive PhaseMove (s s' : State) : Prop where
  | read (hp : s.phase = .read)
  | burst (hp : s.phase = .burst)
  | toggle (ack : Ack) (rest : List Input) (hp : s.phase = .toggle) (he : s' = toggleStep ack { s with inputs := rest })
  | wait (rest : List Input) (hp : s.phase = .wait) (hin : s.inputs = .timerElapsed s.epoch :: rest)
  | reset (rest : List Input) (hin : s.inputs = .rst :: rest) (hp' : s'.phase = .idle)

theorem step_phaseMove (hs : step s = .next s') (hrun : s.phase ≠ .idle) (hne : s'.phase ≠ s.phase) : PhaseMove s s' := by
  cases step_cases hs with
  | noMove _ he => exact absurd (congrArg State.phase he) hne
  | ignored _ _ _ _ _ he => exact absurd (congrArg State.phase he) hne
  | busyReject _ _ _ _ he => exact absurd (congrArg State.phase he) hne
  | illegal _ _ _ _ hp _ _ => exact absurd hp hrun
  | command _ _ _ _ hp _ _ => exact absurd hp hrun
  | read _ _ _ _ hp _ => exact .read hp
  | burst _ _ _ hp _ => exact .burst hp
  | toggle ack rest _ hp he => exact .toggle ack rest hp he
  | wait rest hin hp _ => exact .wait rest hp hin
  | reset rest hin he => exact .reset rest hin (congrArg State.phase he)

/-- Settles O36: of what changes PHASE, only the timer's answer belongs to WAIT. -/
theorem onlyTimerOrResetEndsWait : Obligations.OnlyTimerOrResetEndsWait := by
  intro s s' hp hs hne
  cases step_phaseMove hs (by simp [hp]) (by rwa [hp]) with
  | read hp' => cases hp.symm.trans hp'
  | burst hp' => cases hp.symm.trans hp'
  | toggle _ _ hp' _ => cases hp.symm.trans hp'
  | wait rest _ hin => exact ⟨rest, .inl hin⟩
  | reset rest hin _ => exact ⟨rest, .inr hin⟩

/-- Inverting bit 2 changes bit 2 and no other (R106). -/
theorem toggled_bits (b : Byte) : ∀ i, i < 8 → ((b ^^^ 0x04#8).getLsbD i = b.getLsbD i ↔ i ≠ 2) := by
  revert b; decide

/-- Settles O32: only an acknowledged TOGGLE write leads to WAIT, and its byte is RB3 with bit 2 inverted. -/
theorem toggleFlipsOnlyBitTwo : Obligations.ToggleFlipsOnlyBitTwo := by
  intro s s' hp hs hwait
  cases step_phaseMove hs (by simp [hp]) (by simp [hp, hwait]) with
  | read hp' => cases hp.symm.trans hp'
  | burst hp' => cases hp.symm.trans hp'
  | wait _ hp' _ => cases hp.symm.trans hp'
  | reset _ _ hidle => cases hwait.symm.trans hidle
  | toggle ack rest _ he =>
    cases ack with
    | ok =>
      rw [toggleStep_ok] at he
      exact ⟨s.rb3 ^^^ 0x04#8, congrArg State.trace he, toggled_bits s.rb3⟩
    | fail =>
      rw [toggleStep_fail] at he
      cases hwait.symm.trans (congrArg State.phase he)

/-- Settles O33: the timer's answer reaches `waitStep`, which goes on before the last segment. -/
theorem waitStepAdvances : Obligations.WaitStepAdvances := by
  intro s rest hp h hseg
  rw [step_wait s rest hp h, waitStep_next { s with inputs := rest } hseg]

/-- An answer to a status read-back of this epoch: it counts in READ, and is ignored otherwise. -/
theorem step_readReply (s : State) (ack : Ack) (rb : Vector Byte 7) (rest : List Input)
    (h : s.inputs = .readReply s.epoch ack rb :: rest) :
    step s = .next (if s.phase = .read then readStep ack rb { s with inputs := rest } else { s with inputs := rest }) := by
  by_cases hp : s.phase = .read
  · rw [step_read s ack rb rest hp h, if_pos hp]
  · rw [step_cons s _ rest h, if_neg hp]
    exact if_neg fun hc => hp hc.2

/-- Settles O29: in READ both keep the same byte; in any other phase both answers are ignored. -/
theorem otherReadBytesHaveNoEffect : Obligations.OtherReadBytesHaveNoEffect := by
  rintro s u rb rb' rest t hrb h rfl hs
  rw [step_readReply s .ok rb rest h] at hs
  refine ⟨_, step_readReply _ .ok rb' rest rfl, ?_⟩
  obtain rfl := Host.Outcome.next.inj hs
  by_cases hp : s.phase = .read
  · simp only [hp, if_true, readStep_ok, hrb]
  · simp only [hp, if_false]

/-! ### What holds it -/

/-- Settles O37: a step without a move faults only for an unwritten TEXT byte. -/
theorem heldWithoutAnswer : Obligations.HeldWithoutAnswer := by
  intro s h hwritten
  rw [step_nil s h, noInput, if_neg]
  rintro ⟨hp, hb⟩
  obtain ⟨b, hb'⟩ := hwritten hp
  rw [hb] at hb'
  cases hb'

/-- Settles O39: each of the three moves first compares the epochs. -/
theorem staleAnswersIgnored : Obligations.StaleAnswersIgnored := by
  rintro s e ack rb rest hne (h | h | h) <;> rw [step_cons s _ rest h]
  · exact if_neg fun hc => hne hc.1
  · exact if_neg hne
  · exact if_neg fun hc => hne hc.1

/-! ### Abort -/

/-- The state after a failed transaction `e`: IDLE with STATUS 0x06, BURST as the step left it (R109, R203). -/
def abortedBy (e : Event) (burst : Vector Byte 8) (rest : List Input) (s : State) : State :=
  { s with inputs := rest, phase := .idle, status := 0x06#8, trace := s.trace ++ [e, .abort .busAbort], burst := burst }

/-- Settles O35: in each of the three phases the step on FAIL ends in `abortedBy` its transaction. -/
theorem busFailureAborts : Obligations.BusFailureAborts := by
  intro s t rest hfail hs
  have ht : ∃ e b, isBus e = true ∧ t = abortedBy e b rest s := by
    obtain ⟨rb, hp, hin⟩ | ⟨hp | hp, hin⟩ := hfail
    · rw [step_read s .fail rb rest hp hin, readStep_fail] at hs
      exact ⟨_, s.burst, rfl, (Host.Outcome.next.inj hs).symm⟩
    · rw [step_burst s .fail rest hp hin] at hs
      obtain ⟨b, -, ⟨hack, -⟩ | ⟨-, rfl⟩⟩ := burstStep_next hs
      · cases hack
      · exact ⟨_, b, rfl, rfl⟩
    · rw [step_toggle s .fail rest hp hin, toggleStep_fail] at hs
      exact ⟨_, s.burst, rfl, (Host.Outcome.next.inj hs).symm⟩
  obtain ⟨e, b, hbus, rfl⟩ := ht
  exact ⟨rfl, (by decide : packStatus (statusBusy 0x06#8) (statusErr 0x06#8) = 0x06#8),
    (by decide : statusBusy 0x06#8 = false), (by decide : statusErr 0x06#8 = 3#3), ⟨e, hbus, rfl⟩, rfl⟩

/-! ### Reset -/

/-- Settles O40: the reset step is `resetBlock`, whose fields are those of `State.reset`. -/
theorem resetStepSetsEveryElement : Obligations.ResetStepSetsEveryElement := by
  intro s rest h
  exact ⟨({ s with inputs := rest } : State).resetBlock, step_cons s _ rest h, rfl, rfl, rfl, rfl, Memory.read_nil,
    (by decide : State.reset.statusPort = 0#8), rfl, rfl, rfl, rfl, rfl, rfl, rfl, rfl, rfl, Nat.lt_succ_self s.epoch⟩

/-- Settles O43: a reset of the reset state differs from it only in the epoch, which the invariant does not read. -/
theorem resetMeetsInvariant : Obligations.ResetMeetsInvariant :=
  { inv_resetBlock State.reset with }

/-! ### Faults -/

/-- Every way a step ends: only an unwritten TEXT byte in BURST and a foreign access while BUSY stop it (R216). -/
inductive StepEnd (s : State) : Host.Outcome State Fault Refusal → Prop where
  | next (s' : State) : StepEnd s (.next s')
  | unwrittenText (hp : s.phase = .burst) (hb : s.burstBytes = none) : StepEnd s (.fault .unwrittenText)
  | foreignDeviceAccess (rest : List Input) (hbusy : s.busy = true) (hin : s.inputs = .foreignAccess :: rest) :
      StepEnd s (.fault .foreignDeviceAccess)

/-- A word on the port never stops the block: every command runs, and every other word is turned away. -/
theorem stepEnd_presentWord (w : Word) (t : State) : StepEnd s (presentWord w t) := by
  by_cases hp : t.phase = .idle
  · cases hd : decode w with
    | error e => rw [presentWord_illegal hp hd]; exact .next _
    | ok i => rw [presentWord_of_decode hd, exec_idle i t hp]; exact .next _
  · rw [presentWord_busy w hp]; exact .next _

theorem stepEnd_burstStep (ack : Ack) (rest : List Input) (hp : s.phase = .burst) :
    StepEnd s (burstStep ack { s with inputs := rest }) := by
  cases hb : s.burstBytes with
  | none => rw [burstStep_none ack { s with inputs := rest } hb]; exact .unwrittenText hp hb
  | some b =>
    cases ack with
    | ok => rw [burstStep_ok { s with inputs := rest } b hb]; exact .next _
    | fail => rw [burstStep_fail { s with inputs := rest } b hb]; exact .next _

theorem stepEnd_step (s : State) : StepEnd s (step s) := by
  match h : s.inputs with
  | [] =>
    rw [step_nil s h, noInput]
    split
    next hc => exact .unwrittenText hc.1 hc.2
    next => exact .next _
  | .command w :: rest => rw [step_command s w rest h]; exact stepEnd_presentWord w _
  | .readReply e ack rb :: rest =>
    rw [step_cons s _ rest h, onInput, readReplyStep]
    split <;> exact .next _
  | .writeAck e ack :: rest =>
    rw [step_cons s _ rest h, onInput, writeAckStep]
    split
    · split
      next hp => exact stepEnd_burstStep ack rest hp
      all_goals exact .next _
    · exact .next _
  | .timerElapsed e :: rest =>
    rw [step_cons s _ rest h, onInput, timerStep]
    split <;> exact .next _
  | .rst :: rest => rw [step_cons s _ rest h]; exact .next _
  | .foreignAccess :: rest =>
    rw [step_cons s _ rest h, onInput, foreignStep]
    split
    next hbusy => exact .foreignDeviceAccess rest hbusy h
    next => exact .next _

/-- Settles O52: by the ways a step ends. -/
theorem stepStopsOnlyByRule : Obligations.StepStopsOnlyByRule := by
  intro s
  have hend := stepEnd_step s
  refine ⟨fun r hr => ?_, fun f hf => ?_⟩
  · rw [hr] at hend
    cases hend
  · rw [hf] at hend
    cases hend with
    | unwrittenText hp hb => exact .inl ⟨rfl, hp, hb⟩
    | foreignDeviceAccess rest hbusy hin => exact .inr ⟨rfl, hbusy, rest, hin⟩

/-- Settles O51: the move asks only for `BUSY`. -/
theorem foreignAccessFaultsWhileBusy : Obligations.ForeignAccessFaultsWhileBusy := by
  intro s rest h
  rw [step_cons s _ rest h]
  refine ⟨fun hbusy => if_pos hbusy, fun hbusy => if_neg ?_⟩
  rw [Bool.not_eq_true]
  exact hbusy

/-- In BURST without the bytes to send, an acknowledgement makes no difference (R216 (a)). -/
theorem step_burst_unwritten {ack : Ack} {rest : List Input} (hp : s.phase = .burst) (hb : s.burstBytes = none)
    (hin : s.inputs = [] ∨ s.inputs = .writeAck s.epoch ack :: rest) : step s = .fault .unwrittenText := by
  obtain hin | hin := hin
  · rw [step_nil s hin]
    exact if_pos ⟨hp, hb⟩
  · rw [step_burst s ack rest hp hin]
    exact burstStep_none ack { s with inputs := rest } hb

/-- A PS burst that exists has both TEXT bytes of its segment, so an unwritten one leaves no burst. -/
theorem psBurst_eq_none {p : Params} {text : Memory} {varb stereo : Bool} {pty : BitVec 5} {seg : BitVec 4} {a : Nat}
    (hread : text.read a = none) (hlo : 2 * seg.toNat ≤ a) (hhi : a < 2 * seg.toNat + 2) :
    psBurst p text varb stereo pty seg = none := by
  rw [Option.eq_none_iff_forall_ne_some]
  intro b hb
  obtain ⟨-, h0, h1⟩ := psBurst_eq_some hb
  obtain rfl | rfl : a = 2 * seg.toNat ∨ a = 2 * seg.toNat + 1 := by omega
  · simp [hread] at h0
  · simp [hread] at h1

/-- The same for an RT burst and its four TEXT bytes. -/
theorem rtBurst_eq_none {p : Params} {text : Memory} {ab : Bool} {pty : BitVec 5} {seg : BitVec 4} {a : Nat}
    (hread : text.read a = none) (hlo : 4 * seg.toNat ≤ a) (hhi : a < 4 * seg.toNat + 4) :
    rtBurst p text ab pty seg = none := by
  rw [Option.eq_none_iff_forall_ne_some]
  intro b hb
  obtain ⟨h0, h1, h2, h3⟩ := rtBurst_eq_some hb
  obtain rfl | rfl | rfl | rfl :
      a = 4 * seg.toNat ∨ a = 4 * seg.toNat + 1 ∨ a = 4 * seg.toNat + 2 ∨ a = 4 * seg.toNat + 3 := by omega
  · simp [hread] at h0
  · simp [hread] at h1
  · simp [hread] at h2
  · simp [hread] at h3

/-- Settles O50: the unwritten byte leaves no burst, and without one BURST is the fault. -/
theorem unwrittenTextFaults : Obligations.UnwrittenTextFaults := by
  intro s k a ack rest hp hseg hread hin
  refine ⟨fun hm hk hlo hhi => step_burst_unwritten hp ?_ hin, fun hm hk hlo hhi => step_burst_unwritten hp ?_ hin⟩
  · rw [← toNat_ofNat_psSeg hk] at hlo hhi
    rw [State.burstBytes, hm, hseg]
    exact psBurst_eq_none hread hlo hhi
  · rw [← toNat_ofNat_rtSeg hk] at hlo hhi
    rw [State.burstBytes, hm, hseg]
    exact rtBurst_eq_none hread hlo hhi

end Sys2Proof.Safety

/-! SUPPORT. Whole segments and whole sends, run step by step (R110). -/

namespace Sys2Proof.Safety
open Sys2Proof.Machine

variable {s : State}

/-! ### One segment -/

/-- Four steps carry a segment through, the last of them its WAIT step (R103 to R107). -/
theorem segment_runs {rb : Vector Byte 7} {b : Vector Byte 8} {rest : List Input} (hp : s.phase = .read)
    (hin : s.inputs = segmentInputs s.epoch rb ++ rest) (hb : s.burstBytes = some b) :
    runSteps 4 s =
      .next (waitStep { s with inputs := rest, rb3 := rb[3], burst := b, phase := .wait,
                               trace := s.trace ++ [.busRead 0x2B#7 7 rb.toList .ok, .busWrite 0x2B#7 0x10#8 b.toList .ok,
                                 .busWrite 0x2B#7 s.params.toggleReg.addr [rb[3] ^^^ 0x04#8] .ok,
                                 .timerStart s.params.paceMs] }) := by
  have hread := step_read s .ok rb _ hp hin
  rw [readStep_ok] at hread
  refine Eq.trans (runSteps_succ 3 hread) ?_
  refine Eq.trans (runSteps_succ 2 (Eq.trans (step_burst _ .ok _ rfl rfl) (burstStep_ok _ b hb))) ?_
  refine Eq.trans (runSteps_succ 1 (step_toggle _ .ok _ rfl rfl)) ?_
  rw [toggleStep_ok]
  refine Eq.trans (runSteps_succ 0 (step_wait _ rest rfl rfl)) ?_
  simp only [runSteps_zero, List.append_assoc, List.cons_append, List.nil_append]

/-- Settles O53: before the last segment the WAIT step goes on to READ. -/
theorem segmentRuns : Obligations.SegmentRuns := by
  intro s rb b rest hp hin hb hseg
  rw [segment_runs hp hin hb, waitStep_next _ (by exact hseg)]
  simp [segmentTrace]

/-- In the last segment the WAIT step completes the send (R107, R108). -/
theorem lastSegment_completes {rb : Vector Byte 7} {b : Vector Byte 8} {rest : List Input} (hp : s.phase = .read)
    (hin : s.inputs = segmentInputs s.epoch rb ++ rest) (hb : s.burstBytes = some b) (hseg : s.seg = lastSeg s.mode) :
    runSteps 4 s =
      .next (State.complete { s with inputs := rest, rb3 := rb[3], burst := b, phase := .wait,
                                     trace := s.trace ++ segmentTrace s.params rb b.toList }) := by
  rw [segment_runs hp hin hb]
  simp [waitStep, hseg, State.emit, segmentTrace]

/-! ### All segments of a send -/

/-- A send at READ of segment `n`, its first `n` segments done: RB3 and BURST hold what the last of them left. -/
def afterSegments (s : State) (rb : Nat → Vector Byte 7) (burst : Nat → Vector Byte 8) (n : Nat) (rest : List Input)
    (r : Byte) (b : Vector Byte 8) : State :=
  { s with inputs := rest, rb3 := r, burst := b, seg := BitVec.ofNat 4 n,
           trace := s.trace ++ (List.range n).flatMap fun k => segmentTrace s.params (rb k) (burst k).toList }

section
variable {rb : Nat → Vector Byte 7} {burst : Nat → Vector Byte 8} {n : Nat} {rest : List Input}

/-- By induction on the segments before the last. -/
theorem segments_run (hp : s.phase = .read) (hseg : s.seg = 0#4) (hn : n ≤ (lastSeg s.mode).toNat)
    (hb : ∀ k, k < n → ({ s with seg := BitVec.ofNat 4 k } : State).burstBytes = some (burst k))
    (hin : s.inputs = (List.range n).flatMap (fun k => segmentInputs s.epoch (rb k)) ++ rest) :
    ∃ r b, runSteps (4 * n) s = .next (afterSegments s rb burst n rest r b) := by
  induction n generalizing rest with
  | zero =>
    refine ⟨s.rb3, s.burst, ?_⟩
    have hstart : afterSegments s rb burst 0 rest s.rb3 s.burst = s := by
      simp only [List.range_zero, List.flatMap_nil, List.nil_append] at hin
      simp [afterSegments, ← hseg, ← hin]
    rw [hstart, Nat.mul_zero, runSteps_zero]
  | succ n ih =>
    rw [List.range_succ, List.flatMap_append, List.flatMap_singleton, List.append_assoc] at hin
    obtain ⟨r, b, hrun⟩ := ih (by omega) (fun k hk => hb k (by omega)) hin
    have hlast : BitVec.ofNat 4 n ≠ lastSeg s.mode := by
      intro h
      have := (lastSeg s.mode).isLt
      have := congrArg BitVec.toNat h
      rw [BitVec.toNat_ofNat, Nat.mod_eq_of_lt (by omega)] at this
      omega
    have hnext := segmentRuns (afterSegments s rb burst n (segmentInputs s.epoch (rb n) ++ rest) r b) (rb n) (burst n) rest
      hp rfl (hb n (by omega)) hlast
    refine ⟨(rb n)[3], burst n, ?_⟩
    rw [Nat.mul_succ, runSteps_add _ _ hrun, hnext]
    simp [afterSegments, List.range_succ, BitVec.ofNat_add, hp]

/-- From READ of segment 0, with the answers of every segment of the mode and every burst written, a send runs to its completion
(R110). -/
theorem send_completes (hp : s.phase = .read) (hseg : s.seg = 0#4) (hn : n = (lastSeg s.mode).toNat)
    (hb : ∀ k, k < n + 1 → ({ s with seg := BitVec.ofNat 4 k } : State).burstBytes = some (burst k))
    (hin : s.inputs = (List.range (n + 1)).flatMap (fun k => segmentInputs s.epoch (rb k)) ++ rest) :
    ∃ r b, runSteps (4 * (n + 1)) s =
      .next (State.complete { afterSegments s rb burst (n + 1) rest r b with seg := lastSeg s.mode, phase := .wait }) := by
  rw [List.range_succ, List.flatMap_append, List.flatMap_singleton, List.append_assoc] at hin
  obtain ⟨r, b, hrun⟩ := segments_run hp hseg hn.le (fun k hk => hb k (by omega)) hin
  have hlast : BitVec.ofNat 4 n = lastSeg s.mode := by rw [hn, BitVec.ofNat_toNat, BitVec.setWidth_eq]
  have hend := lastSegment_completes (s := afterSegments s rb burst n (segmentInputs s.epoch (rb n) ++ rest) r b)
    hp rfl (hb n (by omega)) hlast
  refine ⟨(rb n)[3], burst n, ?_⟩
  rw [Nat.mul_succ, runSteps_add _ _ hrun, hend]
  simp [afterSegments, List.range_succ, hlast]

end

/-! ### From the command to the end -/

theorem ptyOf_eq_ofNat (pty : Byte) : ptyOf pty = BitVec.ofNat 5 pty.toNat := by
  rw [ptyOf_eq_mod]
  exact BitVec.eq_of_toNat_eq (by simp)

/-- An idle block takes a command's word and has its effect in one step (R100). -/
theorem step_command_idle {i : Instr} {rest : List Input} (hp : s.phase = .idle)
    (hin : s.inputs = .command (encode i) :: rest) : step s = .next (accepted i { s with inputs := rest }) := by
  rw [step_command s _ rest hin, presentWord_of_decode (decodeEncodeRoundTrip i)]
  exact exec_idle i { s with inputs := rest } hp

theorem accepted_err (i : Instr) (s : State) : (accepted i s).err = 0#3 := by
  cases i <;> simp [accepted, startSend_eq, State.accept_eq, State.err]

/-- STATUS after a send that met no error reads 0 (R108). -/
theorem statusPort_eq_zero {t : State} (h : t.status = packStatus false 0#3) : t.statusPort = 0#8 := by
  rw [State.statusPort, State.busy, State.err, h, statusBusy_packStatus, statusErr_packStatus]
  rfl

theorem exists_psBurst {p : Params} {text : Memory} (varb stereo : Bool) (pty : BitVec 5)
    (hw : ∀ a, a < 8 → text.read a ≠ none) {k : Nat} (hk : k < 4) :
    ∃ b, psBurst p text varb stereo pty (BitVec.ofNat 4 k) = some b := by
  have hread (j : Nat) (hj : j < 2) : ∃ t, text.read (2 * (BitVec.ofNat 4 k).toNat + j) = some t :=
    Option.ne_none_iff_exists'.mp (hw _ (by rw [toNat_ofNat_psSeg hk]; omega))
  obtain ⟨t0, h0⟩ := hread 0 (by omega)
  obtain ⟨t1, h1⟩ := hread 1 (by omega)
  exact ⟨_, psBurst_of_read p varb stereo pty h0 h1⟩

theorem exists_rtBurst {p : Params} {text : Memory} (ab : Bool) (pty : BitVec 5)
    (hw : ∀ a, a < 64 → text.read a ≠ none) {k : Nat} (hk : k < 16) :
    ∃ b, rtBurst p text ab pty (BitVec.ofNat 4 k) = some b := by
  have hread (j : Nat) (hj : j < 4) : ∃ t, text.read (4 * (BitVec.ofNat 4 k).toNat + j) = some t :=
    Option.ne_none_iff_exists'.mp (hw _ (by rw [toNat_ofNat_rtSeg hk]; omega))
  obtain ⟨t0, h0⟩ := hread 0 (by omega)
  obtain ⟨t1, h1⟩ := hread 1 (by omega)
  obtain ⟨t2, h2⟩ := hread 2 (by omega)
  obtain ⟨t3, h3⟩ := hread 3 (by omega)
  exact ⟨_, rtBurst_of_read p ab pty h0 h1 h2 h3⟩

/-- Settles O54: the acceptance starts a PS send, which runs to its completion. -/
theorem psCycleRuns : Obligations.PsCycleRuns := by
  intro s pty vb st rb rest hp hw hin
  rw [← ptyOf_eq_ofNat]
  choose! burst hburst using fun k (hk : k < 4) => exists_psBurst (p := s.params) vb st (ptyOf pty) hw hk
  have hstart := step_command_idle hp hin
  obtain ⟨r, b, hrun⟩ := send_completes (n := 3) (rest := rest)
    (s := accepted (.sendps pty vb st)
      { s with inputs := (List.range 4).flatMap (fun k => segmentInputs s.epoch (rb k)) ++ rest })
    rfl rfl rfl hburst rfl
  rw [State.complete_ps _ rfl] at hrun
  refine ⟨_, burst, hburst, (runSteps_succ 16 hstart).trans hrun, rfl, rfl, rfl, rfl, rfl, rfl, ?_, rfl, rfl, rfl⟩
  exact statusPort_eq_zero (congrArg (packStatus false) (accepted_err (.sendps pty vb st) _))

/-- Settles O55: the acceptance starts an RT send, which runs to its completion. -/
theorem rtCycleRuns : Obligations.RtCycleRuns := by
  intro s pty ab rb rest hp hw hin
  rw [← ptyOf_eq_ofNat]
  choose! burst hburst using fun k (hk : k < 16) => exists_rtBurst (p := s.params) ab (ptyOf pty) hw hk
  have hstart := step_command_idle hp hin
  obtain ⟨r, b, hrun⟩ := send_completes (n := 15) (rest := rest)
    (s := accepted (.sendrt pty ab)
      { s with inputs := (List.range 16).flatMap (fun k => segmentInputs s.epoch (rb k)) ++ rest })
    rfl rfl rfl hburst rfl
  rw [State.complete_rt _ rfl] at hrun
  refine ⟨_, burst, hburst, (runSteps_succ 64 hstart).trans hrun, rfl, rfl, rfl, rfl, rfl, rfl, ?_, rfl, rfl, rfl⟩
  exact statusPort_eq_zero (congrArg (packStatus false) (accepted_err (.sendrt pty ab) _))

end Sys2Proof.Safety
